-- ==== Sys2Proof/Word.lean ====
section
/-! DEFINITION. The widths of the block (00_scope.md R7): 32-bit registers and command words, 8-bit samples,
INTENSITY values and OBUF bytes, and the byte lanes of a 32-bit value (20_memory.md R43). -/

namespace Sys2Proof

/-- A 32-bit unsigned value: a register, a command word, a bus word (R7, R44). -/
abbrev Word := BitVec 32

/-- An 8-bit unsigned value: a noise sample, INTENSITY, one OBUF byte (R7). -/
abbrev Byte := BitVec 8

end Sys2Proof
end

