-- ==== Sys2Proof/Config.lean ====
section
/-! DEFINITION. What an implementation fixes and the spec leaves open: the two parameters ADDR_W and OBUF_CAP
(00_scope.md R5, R6; 92_eei_decisions.md P1, P2), and the free value of a byte of OBUF that nothing has written
(10_state.md R33; 93_implementation_defined.md U1).

The parameters are plain data carried by State (log entry 1), so that a claim about every state is a claim about
every implementation and a test can fix an implementation; the values the reset state carries are opaque. -/

namespace Sys2Proof

/-- The implementation parameters of one block (R5, R6). -/
structure Params where
  /-- `ADDR_W`, the width in bits of an OBUF byte address (R5). -/
  addrW : Nat
  /-- `OBUF_CAP`, the number of bytes OBUF holds (R6). -/
  obufCap : Nat
  deriving DecidableEq, Repr

/-- The bounds the spec sets on the parameters: `2 <= ADDR_W <= 62` (R5), `0 <= OBUF_CAP <= 2^ADDR_W` (R6). -/
abbrev Params.wf (p : Params) : Prop := 2 ≤ p.addrW ∧ p.addrW ≤ 62 ∧ p.obufCap ≤ 2 ^ p.addrW

/-- The uninterpreted choice behind `ADDR_W`. Nothing can prove a value of it. -/
opaque Config.addrWChoice : Nat

/-- The uninterpreted choice behind `OBUF_CAP`. Nothing can prove a value of it. -/
opaque Config.obufCapChoice : Nat

/-- The parameters of the implementation at hand: some `ADDR_W` in `2 .. 62` and some `OBUF_CAP` in
`0 .. 2^ADDR_W`, every such pair being possible (R5, R6; log entry 1). -/
def Config.params : Params where
  addrW := 2 + Config.addrWChoice % 61
  obufCap := Config.obufCapChoice % (2 ^ (2 + Config.addrWChoice % 61) + 1)

/-- The value the `n`-th read of a never-written OBUF byte returns: "any 8-bit value, drawn afresh at each read"
(R33, R102; U1). `n` is the plain counter `State.draws` (log entry 2). -/
opaque Config.freeByte : Nat → BitVec 8

end Sys2Proof
end

