-- ==== Sys2Proof/Machine/Script.lean ====
section
/-! DEFINITION. The host side of the interface: the registers of the window (10_state.md R16), a host access in its
most general form (30_encoding.md R64 and, outside the interface, 42_host_interface.md R104), a statement of a host
script (R65), the host's temporaries t0 .. t7 (R65), a line of a listing (R64, R68), and the agent whose turn comes
next (00_scope.md R12). -/

namespace Sys2Proof.Machine

/-- A register of the window, by its name in R16. -/
inductive Reg where
  | cmd | status | width | height | intensity | seed | state | result | lengthLo | lengthHi | pixX | pixY
  deriving DecidableEq, Repr

/-- The byte offset of a register in the window (R16). -/
def Reg.offset : Reg → Nat
  | .cmd => 0x00
  | .status => 0x04
  | .width => 0x08
  | .height => 0x0C
  | .intensity => 0x10
  | .seed => 0x14
  | .state => 0x18
  | .result => 0x1C
  | .lengthLo => 0x20
  | .lengthHi => 0x24
  | .pixX => 0x28
  | .pixY => 0x2C

/-- The registers of the window, in the order of R16. -/
def Reg.all : List Reg :=
  [.cmd, .status, .width, .height, .intensity, .seed, .state, .result, .lengthLo, .lengthHi, .pixX, .pixY]

/-- The register at an offset; none at 0x30 .. 0xFC, which are reserved (R16, R31). -/
def Reg.ofOffset (off : Nat) : Option Reg := Reg.all.find? fun r => r.offset == off

/-- One access the host puts on the bus, `bytes` wide: an access of R64 or one outside the interface (R104). -/
inductive Access where
  | regWrite (off bytes : Nat) (data : Word)
  | regRead (off bytes : Nat)
  | obufRead (addr bytes : Nat)
  | obufWrite (addr bytes : Nat) (data : Word)
  deriving DecidableEq, Repr

/-- The name of a host temporary (R65). -/
inductive Temp where
  | t0 | t1 | t2 | t3 | t4 | t5 | t6 | t7
  deriving DecidableEq, Repr

/-- The host's eight 32-bit temporaries; they belong to the host, not to the block (R65). -/
structure Temps where
  t0 : Word
  t1 : Word
  t2 : Word
  t3 : Word
  t4 : Word
  t5 : Word
  t6 : Word
  t7 : Word
  deriving DecidableEq, Repr

/-- Read a temporary. -/
def Temps.get (ts : Temps) : Temp → Word
  | .t0 => ts.t0
  | .t1 => ts.t1
  | .t2 => ts.t2
  | .t3 => ts.t3
  | .t4 => ts.t4
  | .t5 => ts.t5
  | .t6 => ts.t6
  | .t7 => ts.t7

/-- Write a temporary. -/
def Temps.set (ts : Temps) (v : Word) : Temp → Temps
  | .t0 => { ts with t0 := v }
  | .t1 => { ts with t1 := v }
  | .t2 => { ts with t2 := v }
  | .t3 => { ts with t3 := v }
  | .t4 => { ts with t4 := v }
  | .t5 => { ts with t5 := v }
  | .t6 => { ts with t6 := v }
  | .t7 => { ts with t7 := v }

/-- A statement of a host script after its labels are resolved (R65): a target is the index of a statement. The last
constructor is a host access that the script's seven statements cannot write (R104); the data it returns is dropped. -/
inductive HostStmt where
  | wr (off : Nat) (data : Word)
  | rd (off : Nat) (dst : Temp)
  | rdb (addr : Nat) (dst : Temp)
  | rdw (addr : Nat) (dst : Temp)
  | jbs (t : Temp) (bit : Fin 32) (target : Nat)
  | jbc (t : Temp) (bit : Fin 32) (target : Nat)
  | halt
  | access (a : Access)
  deriving DecidableEq, Repr

/-- One line of a listing: a transaction of R64 with the data it carries or returns. -/
inductive ListingLine where
  | w (off : Nat) (data : Word)
  | r (off : Nat) (data : Word)
  | b (addr : Nat) (data : Byte)
  | d (addr : Nat) (data : Word)
  deriving DecidableEq, Repr

/-- Whose transition comes next in the one total order of R12: the host's, the engine's, or a reset. -/
inductive Turn where
  | host
  | engine
  | reset
  deriving DecidableEq, Repr

end Sys2Proof.Machine
end

