-- ==== Sys2Proof/Syntax.lean ====
section
/-! DEFINITION. The command set NGC-CMD v1: the four commands of opcode_table.json (30_encoding.md R59). Every operand
is an implicit register and there are no immediates (R57, R60), so no constructor has an argument. -/

namespace Sys2Proof

/-- A command of NGC-CMD v1, in the order of R59. -/
inductive Instr where
  /-- INIT: `initialize(seed)`, 40_lcg_engine.md R73. -/
  | init
  /-- NEXT_WORD: `next_word()`, R74. -/
  | nextWord
  /-- NEXT_BYTE: `next_byte()`, R75. -/
  | nextByte
  /-- GENERATE: `generate(width, height, intensity, seed)`, 41_buffer_writer.md R82. -/
  | generate
  deriving DecidableEq, Repr

end Sys2Proof
end

