-- ==== Sys2Proof/WellFormed.lean ====
section
/-! DEFINITION. Which terms the spec gives a meaning: commands (30_encoding.md R57, R60), host accesses (R64; the rest is
42_host_interface.md R104), and host scripts (R65). The parameters' own bounds are `Params.wf`. -/

namespace Sys2Proof

/-- A command has no operand field (R57, R60), so every term of `Instr` is well formed. -/
def Instr.wf : Instr → Bool
  | .init => true
  | .nextWord => true
  | .nextByte => true
  | .generate => true

/-- An access is one of the four transaction kinds of R64 exactly when it passes this check. -/
def Machine.Access.wf (p : Params) : Machine.Access → Bool
  | .regWrite off bytes _ => bytes == 4 && off % 4 == 0 && decide (off < 0x100)
  | .regRead off bytes => bytes == 4 && off % 4 == 0 && decide (off < 0x100)
  | .obufRead addr bytes =>
      (bytes == 1 && decide (addr < p.obufCap))
        || (bytes == 4 && addr % 4 == 0 && decide (addr + 4 ≤ p.obufCap))
  | .obufWrite _ _ _ => false

/-- A script statement is well formed when its access is, or its target is a statement of the script of length `n`. -/
def Machine.HostStmt.wf (p : Params) (n : Nat) : Machine.HostStmt → Bool
  | .wr off data => Machine.Access.wf p (.regWrite off 4 data)
  | .rd off _ => Machine.Access.wf p (.regRead off 4)
  | .rdb addr _ => Machine.Access.wf p (.obufRead addr 1)
  | .rdw addr _ => Machine.Access.wf p (.obufRead addr 4)
  | .jbs _ _ target => decide (target < n)
  | .jbc _ _ target => decide (target < n)
  | .halt => true
  | .access a => Machine.Access.wf p a

/-- Every statement of the script is well formed. -/
def Machine.scriptWf (p : Params) (script : List Machine.HostStmt) : Bool :=
  script.all (Machine.HostStmt.wf p script.length)

end Sys2Proof
end

