-- ==== Sys2Proof/Decode.lean ====
section
/-! DEFINITION. The decoder of 30_encoding.md R58, total on every 32-bit word and rejecting by name, and after it the
encoder of R59. A command is one 32-bit word of the one format CMD32 (R56): RSV is bits [31:8], OP bits [7:0] (R57). -/

namespace Sys2Proof

/-- Why a word is `Illegal` (R61). The block reports both the same way, as ILLEGAL_CMD (60_exceptions.md R108). -/
inductive Illegal where
  /-- RSV, bits [31:8], is not 0. -/
  | reservedBits
  /-- RSV is 0 and OP is 0x00 or one of 0x05 .. 0xFF. -/
  | unknownOp
  deriving DecidableEq, Repr

/-- The field RSV of CMD32, bits [31:8] (R57). -/
def fieldRsv (w : Word) : BitVec 24 := w.extractLsb' 8 24

/-- The field OP of CMD32, bits [7:0] (R57). -/
def fieldOp (w : Word) : BitVec 8 := w.extractLsb' 0 8

/-- Decoding is a total function from any 32-bit word to a command or to `Illegal` (R58). -/
def decode (w : Word) : Except Illegal Instr :=
  if fieldRsv w ≠ 0#24 then .error .reservedBits
  else if fieldOp w = 0x01#8 then .ok .init
  else if fieldOp w = 0x02#8 then .ok .nextWord
  else if fieldOp w = 0x03#8 then .ok .nextByte
  else if fieldOp w = 0x04#8 then .ok .generate
  else .error .unknownOp

/-- The OP value of a command (R59). -/
def opOf : Instr → BitVec 8
  | .init => 0x01#8
  | .nextWord => 0x02#8
  | .nextByte => 0x03#8
  | .generate => 0x04#8

/-- The command word of a command: RSV = 0 above its OP (R57, R59). -/
def encode (i : Instr) : Word := 0#24 ++ opOf i

/-- The instruction the decoder reads from the word whose bits are `w`, of which opcode_table.json gives `nbits`.
There is exactly one command length, 32 bits (R56): nothing longer is a command, and the bits above `nbits` are 0. -/
def decodeTableWord (nbits w : Nat) : Option Instr :=
  if nbits ≤ 32 then
    match decode (BitVec.ofNat 32 (w % 2 ^ nbits)) with
    | .ok i => some i
    | .error _ => none
  else none

end Sys2Proof
end

