-- ==== Sys2Proof/Machine/State.lean ====
section
/-! DEFINITION. The machine's state as plain data: the architectural state of 10_state.md R15, whole, and beside it what
the model holds of the world around the block (its parameters, the host and its script, the order of turns, the
counter of free values); the reasons a step can stop; the state after reset (70_reset_and_hazards.md R124, R125). -/

namespace Sys2Proof.Machine

/-- OBUF: the bytes written since power-up, as (address, byte) with addresses strictly rising. An address that is not
listed has not been written since power-up: its value is unspecified (R33). -/
abbrev Memory := List Host.Cell

/-- The state. The first group is exactly the table of R15; the rest is the model's own. -/
structure State where
  /-- STATE, the LCG state word (R17). -/
  state : Word
  /-- WIDTH (R18). -/
  width : Word
  /-- HEIGHT (R19). -/
  height : Word
  /-- INTENSITY (R20): inert storage. -/
  intensity : Byte
  /-- SEED (R21). -/
  seed : Word
  /-- RESULT (R22). -/
  result : Word
  /-- LENGTH, read as LENGTH_LO and LENGTH_HI (R23). -/
  length : BitVec 64
  /-- STATUS: BUSY [0], DONE [1], ERR [2], OVR [3], ERRCODE [15:8] (R24). -/
  status : Word
  /-- X, read as PIX_X (R27). -/
  x : Word
  /-- Y, read as PIX_Y (R27). -/
  y : Word
  /-- WADDR, a register of ADDR_W + 1 bits (R27): a store reduces mod 2^(ADDR_W + 1) (R10; log entry 3). -/
  waddr : Nat
  /-- OBUF (R33). -/
  obuf : Memory
  /-- Model's own: the parameters ADDR_W and OBUF_CAP (R5, R6), which no step changes (log entry 1). -/
  cfg : Params
  /-- Model's own: how many free values reads of never-written OBUF bytes have drawn (U1; log entry 2). -/
  draws : Nat
  /-- Model's own: the host's script (30_encoding.md R65), labels resolved (log entry 4). -/
  script : List HostStmt
  /-- Model's own: the index in the script of the host's next statement. -/
  hpc : Nat
  /-- Model's own: the host's temporaries t0 .. t7 (R65). -/
  temps : Temps
  /-- Model's own: whose turns come next, in order (00_scope.md R12; log entry 5). -/
  schedule : List Turn
  deriving DecidableEq, Repr

/-- Why a step ends in a fault. -/
inductive Fault where
  /-- Raised by the pixel step when the quad at WADDR would reach past OBUF_CAP, an address that holds no storage (20_memory.md
  R40). Safe: no state that meets the invariant raises it (41_buffer_writer.md R85, R96). -/
  | quadOutsideObuf
  deriving DecidableEq, Repr

/-- Why a step is refused. All but the first are the protocol violations of 42_host_interface.md R104, whose response is
unspecified and which "a model refuses"; each is safe: the run is given no meaning. -/
inductive Refusal where
  /-- Raised by an arm of `exec` whose instruction has no meaning yet. Safe. -/
  | notModelled (mnemonic : String)
  /-- A host register access that is not 32 bits wide. Safe. -/
  | registerWidth
  /-- A host register access not at a multiple-of-4 offset. Safe. -/
  | registerMisaligned
  /-- A host register access at an offset at or above 0x100. Safe. -/
  | registerOutsideWindow
  /-- A host OBUF read that reaches past OBUF_CAP. Safe. -/
  | obufOutside
  /-- A host OBUF word read not at a multiple of 4. Safe. -/
  | obufMisaligned
  /-- A host OBUF read that is neither 1 nor 4 bytes wide. Safe. -/
  | obufWidth
  /-- A host write to OBUF. Safe. -/
  | obufWrite
  deriving DecidableEq, Repr

/-- The machine right after power-up, which is a reset after which every OBUF byte is unspecified (R124, R125, R127). The
parameters are those of the implementation at hand; there is no host script, and no turn is fixed in advance. -/
def State.reset : State where
  state := 0#32
  width := 0#32
  height := 0#32
  intensity := 0#8
  seed := 0#32
  result := 0#32
  length := 0#64
  status := 0#32
  x := 0#32
  y := 0#32
  waddr := 0
  obuf := []
  cfg := Config.params
  draws := 0
  script := []
  hpc := 0
  temps := ⟨0#32, 0#32, 0#32, 0#32, 0#32, 0#32, 0#32, 0#32⟩
  schedule := []

end Sys2Proof.Machine
end

