-- ==== Sys2Proof/Machine/Flags.lean ====
section
/-! DEFINITION. STATUS and its fields (10_state.md R24, R25): the block's only flags (R32). No arithmetic sets a flag; the
fields are written by the take, a completion, an error completion and a dropped write (Machine/Ops.lean). -/

namespace Sys2Proof.Machine

/-- BUSY, bit [0]: a GENERATE is iterating pixels. -/
def statusBusy (w : Word) : Bool := w.getLsbD 0

/-- DONE, bit [1]: the last taken command has completed. -/
def statusDone (w : Word) : Bool := w.getLsbD 1

/-- ERR, bit [2]: the last taken command ended in error. -/
def statusErr (w : Word) : Bool := w.getLsbD 2

/-- OVR, bit [3]: a host write was dropped since the last take. -/
def statusOvr (w : Word) : Bool := w.getLsbD 3

/-- ERRCODE, bits [15:8]. -/
def statusErrcode (w : Word) : Byte := w.extractLsb' 8 8

/-- Write one bit of a word and no other (00_scope.md R11: "A write to a field writes only that field"). -/
def writeBit (w : Word) (i : Nat) (b : Bool) : Word :=
  if b then w ||| (1#32 <<< i) else w &&& ~~~(1#32 <<< i)

/-- Write BUSY. -/
def withBusy (w : Word) (b : Bool) : Word := writeBit w 0 b

/-- Write DONE. -/
def withDone (w : Word) (b : Bool) : Word := writeBit w 1 b

/-- Write ERR. -/
def withErr (w : Word) (b : Bool) : Word := writeBit w 2 b

/-- Write OVR. -/
def withOvr (w : Word) (b : Bool) : Word := writeBit w 3 b

/-- Write ERRCODE. -/
def withErrcode (w : Word) (c : Byte) : Word := (w &&& 0xFFFF00FF#32) ||| (c.setWidth 32 <<< 8)

/-- What a read of STATUS returns (42_host_interface.md R100): `{16'b0, ERRCODE, 4'b0, OVR, ERR, DONE, BUSY}`; the reserved
bits read 0 (R24). -/
def statusRead (w : Word) : Word :=
  0#16 ++ statusErrcode w ++ 0#4 ++ BitVec.ofBool (statusOvr w) ++ BitVec.ofBool (statusErr w)
    ++ BitVec.ofBool (statusDone w) ++ BitVec.ofBool (statusBusy w)

/-- An error the block reports (60_exceptions.md R109: "There are no others"). -/
inductive CmdError where
  | illegalCmd
  | sizeOverflow
  | noCapacity
  deriving DecidableEq, Repr

/-- The ERRCODE of an error (R25, R109). -/
def CmdError.code : CmdError → Byte
  | .illegalCmd => 0x01#8
  | .sizeOverflow => 0x02#8
  | .noCapacity => 0x03#8

/-- STATUS.BUSY of a state. -/
def State.busy (s : State) : Bool := statusBusy s.status

/-- STATUS.DONE of a state. -/
def State.done (s : State) : Bool := statusDone s.status

/-- STATUS.ERR of a state. -/
def State.err (s : State) : Bool := statusErr s.status

/-- STATUS.OVR of a state. -/
def State.ovr (s : State) : Bool := statusOvr s.status

/-- STATUS.ERRCODE of a state. -/
def State.errcode (s : State) : Byte := statusErrcode s.status

end Sys2Proof.Machine
end

