-- ==== Sys2Proof/Machine/Ops.lean ====
section
/-! DEFINITION. The named operations over registers and memory. Writing a register (00_scope.md R10, R11), OBUF as a byte
memory and its little-endian word view (20_memory.md R40, R43), the draw of a free value for a never-written byte
(93_implementation_defined.md U1), the take that clears the record (42_host_interface.md R99), the two completions
(60_exceptions.md R110; the DONE of 40_lcg_engine.md R72), and reset (70_reset_and_hazards.md R124).

The error completion `raiseCmdError` is this block's whole exception entry: there is no trap, no saved program counter
and no return (R115, R116); the record it leaves is cleared by `clearRecord` at the next take, beside it. -/

namespace Sys2Proof.Machine

/-- Go on with the next state, or keep the stop. -/
def onNext {σ τ : Type} (o : Host.Outcome σ Fault Refusal) (f : σ → Host.Outcome τ Fault Refusal) :
    Host.Outcome τ Fault Refusal :=
  match o with
  | .next s => f s
  | .fault r => .fault r
  | .refused r => .refused r

/-! ## OBUF -/

/-- The canonical form: addresses strictly rising. An unlisted address holds no written value, so no entry is superfluous. -/
abbrev Memory.wf (m : Memory) : Prop := m.Pairwise (fun c d => c.1 < d.1)

/-- The byte last written at an address, or `none` where none has been written since power-up (R33). -/
def Memory.read? : Memory → Nat → Option Byte
  | [], _ => none
  | c :: m, a => if a = c.1 then some c.2 else Memory.read? m a

/-- Write one byte, keeping the canonical form. -/
def Memory.write : Memory → Nat → Byte → Memory
  | [], a, b => [(a, b)]
  | c :: m, a, b =>
    if a < c.1 then (a, b) :: c :: m
    else if a = c.1 then (a, b) :: m
    else c :: Memory.write m a b

/-- Byte `k` of a word, `v[8k+7:8k]` (R11). -/
def byteOf (v : Word) (k : Nat) : Byte := v.extractLsb' (8 * k) 8

/-- `MemWrite(addr, n, v)`: byte `k` of `v` goes to `addr + k`, for `k = 0 .. n - 1` (R11). -/
def Memory.writeLE (m : Memory) (a : Nat) (v : Word) : Nat → Memory
  | 0 => m
  | n + 1 => Memory.write (Memory.writeLE m a v n) (a + n) (byteOf v n)

/-! ## Registers -/

/-- Write STATE. -/
def State.setState (s : State) (v : Word) : State := { s with state := v }

/-- Write WIDTH. -/
def State.setWidth (s : State) (v : Word) : State := { s with width := v }

/-- Write HEIGHT. -/
def State.setHeight (s : State) (v : Word) : State := { s with height := v }

/-- Write INTENSITY. -/
def State.setIntensity (s : State) (v : Byte) : State := { s with intensity := v }

/-- Write SEED. -/
def State.setSeed (s : State) (v : Word) : State := { s with seed := v }

/-- Write RESULT. -/
def State.setResult (s : State) (v : Word) : State := { s with result := v }

/-- Write LENGTH. -/
def State.setLength (s : State) (v : BitVec 64) : State := { s with length := v }

/-- Write STATUS. -/
def State.setStatus (s : State) (v : Word) : State := { s with status := v }

/-- Write the iterator X, Y, WADDR (R27). WADDR has ADDR_W + 1 bits and is stored mod 2^(ADDR_W + 1) (R10). -/
def State.setIter (s : State) (x y : Word) (waddr : Nat) : State :=
  { s with x := x, y := y, waddr := waddr % 2 ^ (s.cfg.addrW + 1) }

/-- Replace the contents of OBUF. -/
def State.setObuf (s : State) (m : Memory) : State := { s with obuf := m }

/-- Set the counter of free values. -/
def State.setDraws (s : State) (n : Nat) : State := { s with draws := n }

/-- Set the index of the host's next statement. -/
def State.setHpc (s : State) (n : Nat) : State := { s with hpc := n }

/-- Write a host temporary (R65). -/
def State.setTemp (s : State) (t : Temp) (v : Word) : State := { s with temps := s.temps.set v t }

/-- Set the turns to come. -/
def State.setSchedule (s : State) (l : List Turn) : State := { s with schedule := l }

/-- The host's statement is passed: the next one in order follows. -/
def State.advance (s : State) : State := s.setHpc (s.hpc + 1)

/-! ## Reading OBUF -/

/-- Read one byte of OBUF: the last value written to it, or, where none has been written since power-up, a value drawn
afresh (R33, R102; U1). -/
def readByte (a : Nat) (s : State) : Byte × State :=
  match s.obuf.read? a with
  | some b => (b, s)
  | none => (Config.freeByte s.draws, s.setDraws (s.draws + 1))

/-- `MemRead(addr, n)`: the `n` bytes at `addr .. addr + n - 1`, the byte at `addr` in bits [7:0] (R11, R43). -/
def readLE (a : Nat) : Nat → State → Word × State
  | 0, s => (0#32, s)
  | n + 1, s =>
    let low := readLE a n s
    let top := readByte (a + n) low.2
    (low.1 ||| (top.1.setWidth 32 <<< (8 * n)), top.2)

/-! ## Completing a command -/

/-- The take of a command clears DONE, ERR, OVR and ERRCODE (R99). -/
def clearRecord (s : State) : State :=
  s.setStatus (withErrcode (withOvr (withErr (withDone s.status false) false) false) 0x00#8)

/-- A command completes without error: DONE <- 1 (40_lcg_engine.md R72). -/
def completeOk (s : State) : State := s.setStatus (withDone s.status true)

/-- `raise CmdError(code)` ends the command being taken (60_exceptions.md R110): DONE <- 1, ERR <- 1, ERRCODE <- code. -/
def raiseCmdError (e : CmdError) (s : State) : State :=
  s.setStatus (withErrcode (withErr (withDone s.status true) true) e.code)

/-- A host write that arrives while BUSY = 1 is dropped: OVR <- 1 and nothing else changes (42_host_interface.md R98). -/
def dropWrite (s : State) : State := s.setStatus (withOvr s.status true)

/-! ## Reset and the order of turns -/

/-- Reset, one atomic transition: every register takes its reset value 0, and OBUF is not written (R124). What lies outside
the block (the host, its script and temporaries, the turns) is not touched (log entry 8). -/
def resetBlock (s : State) : State :=
  { s with
    state := 0#32, width := 0#32, height := 0#32, intensity := 0#8, seed := 0#32, result := 0#32, length := 0#64,
    status := 0#32, x := 0#32, y := 0#32, waddr := 0 }

/-- Whose turn it is, and the state with that turn taken off the schedule. Once the schedule is used up, the engine goes
first while it has a step and the host otherwise, so that no enabled engine step is postponed forever (R12, R135; log
entry 5). -/
def nextTurn (s : State) : Turn × State :=
  match s.schedule with
  | [] => (if s.busy then .engine else .host, s)
  | t :: rest => (t, s.setSchedule rest)

end Sys2Proof.Machine
end

