-- ==== Sys2Proof/Machine/Operands.lean ====
section
/-! DEFINITION. The operands. Every operand of a command is an implicit register (30_encoding.md R60); GENERATE computes
`npix` and `size` from two of them (41_buffer_writer.md R81). The host reaches the registers by offset: the parameter
registers it can write (42_host_interface.md R97) and the value a read of each offset returns (R100). -/

namespace Sys2Proof.Machine

/-- `npix = R[WIDTH] * R[HEIGHT]`, exact (R81). -/
def npix (s : State) : Nat := s.width.toNat * s.height.toNat

/-- `size = 4 * npix`, exact (R81). -/
def size (s : State) : Nat := 4 * npix s

/-- `2^ADDR_W`, the maximum addressable length (00_scope.md R5). -/
def maxLength (s : State) : Nat := 2 ^ s.cfg.addrW

/-- The pixel index of the next pixel, `p = Y * W + X` (10_state.md R28). -/
def pixIndex (s : State) : Nat := s.y.toNat * s.width.toNat + s.x.toNat

/-- Whether a register is one of the parameters the host writes (R97). -/
def Reg.isParam : Reg → Bool
  | .width => true
  | .height => true
  | .intensity => true
  | .seed => true
  | .cmd => false
  | .status => false
  | .state => false
  | .result => false
  | .lengthLo => false
  | .lengthHi => false
  | .pixX => false
  | .pixY => false

/-- Write a parameter register (R97); INTENSITY takes `v[7:0]`. A register that is no parameter is left alone (R101). -/
def writeParam (r : Reg) (v : Word) (s : State) : State :=
  match r with
  | .width => s.setWidth v
  | .height => s.setHeight v
  | .intensity => s.setIntensity (v.extractLsb' 0 8)
  | .seed => s.setSeed v
  | .cmd => s
  | .status => s
  | .state => s
  | .result => s
  | .lengthLo => s
  | .lengthHi => s
  | .pixX => s
  | .pixY => s

/-- The value a read of a register returns (R100). CMD holds no state and reads 0 (10_state.md R30). -/
def readReg (r : Reg) (s : State) : Word :=
  match r with
  | .cmd => 0x00000000#32
  | .status => statusRead s.status
  | .width => s.width
  | .height => s.height
  | .intensity => BitVec.setWidth 32 s.intensity
  | .seed => s.seed
  | .state => s.state
  | .result => s.result
  | .lengthLo => s.length.extractLsb' 0 32
  | .lengthHi => s.length.extractLsb' 32 32
  | .pixX => s.x
  | .pixY => s.y

/-- The value a read of an offset returns: a register's, or 0 at a reserved offset (R31, R100). -/
def readOffset (off : Nat) (s : State) : Word :=
  match Reg.ofOffset off with
  | some r => readReg r s
  | none => 0x00000000#32

end Sys2Proof.Machine
end

