-- ==== Sys2Proof/Machine/Lcg.lean ====
section
/-! DEFINITION. The LCG engine (40_lcg_engine.md): its two pure functions and the commands INIT, NEXT_WORD and NEXT_BYTE.
Each meaning is the pseudocode of its rule; it runs inside the transaction that takes the CMD write, after the take has
cleared DONE, ERR, OVR and ERRCODE (Machine/HostPort.lean). -/

namespace Sys2Proof.Machine

/-- The multiplier `LCG_A` (R69). -/
def lcgA : Word := 1664525#32

/-- The increment `LCG_C` (R69). -/
def lcgC : Word := 1013904223#32

/-- `lcg_step(s) = (s * 1664525 + 1013904223) mod 2^32` (R70); the wrap is the defined result. The constants stand first
in the product and the sum, which changes no value: Lean then never unfolds them one by one when it compares two states. -/
def lcgStep (s : Word) : Word := lcgC + lcgA * s

/-- `sample(s) = s[31:24]` (R71; 90_conflicts.md C1: the logical shift). -/
def sample (s : Word) : Byte := s.extractLsb' 24 8

/-- `lcg_step^k(s)` (00_scope.md R14). -/
def lcgIter : Nat → Word → Word
  | 0, s => s
  | k + 1, s => lcgStep (lcgIter k s)

/-- INIT sets the LCG state from the seed (R73). -/
def execInit (s : State) : Host.Outcome State Fault Refusal :=
  .next (completeOk (s.setState s.seed))

/-- NEXT_WORD advances the state and returns the new state word (R74). -/
def execNextWord (s : State) : Host.Outcome State Fault Refusal :=
  .next (completeOk ((s.setState (lcgStep s.state)).setResult (lcgStep s.state)))

/-- NEXT_BYTE advances the state and returns the top byte of the new state, zero-extended (R75). -/
def execNextByte (s : State) : Host.Outcome State Fault Refusal :=
  .next (completeOk ((s.setState (lcgStep s.state)).setResult (BitVec.setWidth 32 (sample (lcgStep s.state)))))

end Sys2Proof.Machine
end

