-- ==== Sys2Proof/Machine/BufferWriter.lean ====
section
/-! DEFINITION. The buffer writer (41_buffer_writer.md): GENERATE's size check and acceptance, which run inside the take of
the command, and the engine's pixel step, one atomic transition per pixel, the last of which completes the command. -/

namespace Sys2Proof.Machine

/-- The RGBA quad of a noise byte: `pack(n) = {8'hFF, n, n, n}` (R87). -/
def pack (n : Byte) : Word := 0xFF#8 ++ n ++ n ++ n

/-- Completion of a GENERATE (R90): LENGTH <- size, BUSY <- 0, DONE <- 1. -/
def completeGenerate (s : State) : State :=
  (s.setLength (BitVec.ofNat 64 (size s))).setStatus (withDone (withBusy s.status false) true)

/-- Acceptance of a GENERATE whose size check passes (R86). With no pixel it completes at once (R90, R94). -/
def acceptGenerate (s : State) : State :=
  let started := ((s.setState s.seed).setIter 0#32 0#32 0).setLength 0#64
  if npix s = 0 then completeGenerate started
  else started.setStatus (withBusy started.status true)

/-- GENERATE: the size check (R83, R84), then the acceptance (R86). -/
def execGenerate (s : State) : Host.Outcome State Fault Refusal :=
  if size s > maxLength s then .next (raiseCmdError .sizeOverflow (s.setLength 0#64))
  else if size s > s.cfg.obufCap then .next (raiseCmdError .noCapacity (s.setLength 0#64))
  else .next (acceptGenerate s)

/-- Advance the iterator past the pixel just written (R89). `X + 1 = W` is compared exactly (00_scope.md R10). -/
def advanceIter (s : State) : State :=
  if s.x.toNat + 1 = s.width.toNat then s.setIter 0#32 (s.y + 1#32) (s.waddr + 4)
  else s.setIter (s.x + 1#32) s.y (s.waddr + 4)

/-- Draw the next sample and write its quad at WADDR, all four bytes at once (R89; 20_memory.md R47). -/
def writeQuad (s : State) : State :=
  (s.setState (lcgStep s.state)).setObuf (s.obuf.writeLE s.waddr (pack (sample (lcgStep s.state))) 4)

/-- Complete the command if the last pixel has been written (R89, R90). -/
def completeIfLast (s : State) : State :=
  if s.y = s.height then completeGenerate s else s

/-- The pixel step (R89). The quad must lie in the storage of OBUF; no state that meets the invariant fails this (R85,
R96; log entry 6). -/
def pixelStep (s : State) : Host.Outcome State Fault Refusal :=
  if s.waddr + 4 ≤ s.cfg.obufCap then .next (completeIfLast (advanceIter (writeQuad s)))
  else .fault .quadOutsideObuf

/-- The engine's turn: it has a step exactly when BUSY = 1 (R88); with none, the turn passes (log entry 5). -/
def engineTurn (s : State) : Host.Outcome State Fault Refusal :=
  if s.busy then pixelStep s else .next s

end Sys2Proof.Machine
end

