-- ==== Sys2Proof/Machine/Dispatch.lean ====
section
/-! DEFINITION. The meaning of each command, inside the take of its CMD write (42_host_interface.md R99). -/

namespace Sys2Proof.Machine

def exec (i : Instr) (s : State) : Host.Outcome State Fault Refusal :=
  match i with
  | .init => Sys2Proof.Machine.execInit s
  | .nextWord => Sys2Proof.Machine.execNextWord s
  | .nextByte => Sys2Proof.Machine.execNextByte s
  | .generate => Sys2Proof.Machine.execGenerate s

end Sys2Proof.Machine
end

