-- ==== Sys2Proof/Machine/HostPort.lean ====
section
/-! DEFINITION. The host interface (42_host_interface.md): register writes, the command take, register reads, OBUF reads,
the protocol violations a model refuses, and the host's turn, which runs one statement of its script (30_encoding.md
R65). -/

namespace Sys2Proof.Machine

/-- The command take (R99): the record is cleared and the command performed, or the illegal word reported, in one
transaction. -/
def takeCommand (w : Word) (s : State) : Host.Outcome State Fault Refusal :=
  match decode w with
  | .ok i => exec i (clearRecord s)
  | .error _ => .next (raiseCmdError .illegalCmd (clearRecord s))

/-- A host register write. To CMD or a parameter register it is dropped while BUSY = 1 (R98) and otherwise taken (R97,
R99); to a read-only or reserved offset it is ignored at all times (R101). -/
def hostWrite (off : Nat) (v : Word) (s : State) : Host.Outcome State Fault Refusal :=
  match Reg.ofOffset off with
  | some .cmd => if s.busy then .next (dropWrite s) else takeCommand v s
  | some r => if r.isParam then .next (if s.busy then dropWrite s else writeParam r v s) else .next s
  | none => .next s

/-- Why a register access is outside the interface, if it is (R104). -/
def registerRefusal (off bytes : Nat) : Option Refusal :=
  if bytes ≠ 4 then some .registerWidth
  else if off % 4 ≠ 0 then some .registerMisaligned
  else if 0x100 ≤ off then some .registerOutsideWindow
  else none

/-- Why an OBUF read is outside the interface, if it is (R104). -/
def obufRefusal (p : Params) (a bytes : Nat) : Option Refusal :=
  if bytes = 1 then (if p.obufCap ≤ a then some .obufOutside else none)
  else if bytes = 4 then
    (if a % 4 ≠ 0 then some .obufMisaligned
    else if p.obufCap < a + 4 then some .obufOutside
    else none)
  else some .obufWidth

/-- One host access, one atomic transition (R47 of 20_memory.md): the next state and the data returned (0 for a write). A
protocol violation is refused and given no value (R104). -/
def performAccess (a : Access) (s : State) : Host.Outcome (State × Word) Fault Refusal :=
  match a with
  | .regWrite off bytes v =>
    match registerRefusal off bytes with
    | some r => .refused r
    | none => onNext (hostWrite off v s) fun t => .next (t, 0#32)
  | .regRead off bytes =>
    match registerRefusal off bytes with
    | some r => .refused r
    | none => .next (s, readOffset off s)
  | .obufRead addr bytes =>
    match obufRefusal s.cfg addr bytes with
    | some r => .refused r
    | none => .next ((readLE addr bytes s).2, (readLE addr bytes s).1)
  | .obufWrite _ _ _ => .refused .obufWrite

/-- Perform an access and give the data it returns to a temporary. -/
def accessInto (a : Access) (t : Temp) (s : State) : Host.Outcome State Fault Refusal :=
  onNext (performAccess a s) fun r => .next (r.1.setTemp t r.2)

/-- Perform an access and drop the data it returns. -/
def accessOnly (a : Access) (s : State) : Host.Outcome State Fault Refusal :=
  onNext (performAccess a s) fun r => .next r.1

/-- A statement of the host's script (30_encoding.md R65). `jbs`, `jbc` and `halt` are the host's own control flow: they
issue no transaction. At `halt` the script has ended and the host stays there (R106). -/
def execStmt (st : HostStmt) (s : State) : Host.Outcome State Fault Refusal :=
  match st with
  | .wr off v => accessOnly (.regWrite off 4 v) s.advance
  | .rd off t => accessInto (.regRead off 4) t s.advance
  | .rdb addr t => accessInto (.obufRead addr 1) t s.advance
  | .rdw addr t => accessInto (.obufRead addr 4) t s.advance
  | .jbs t bit target => .next (if (s.temps.get t).getLsbD bit then s.setHpc target else s.advance)
  | .jbc t bit target => .next (if (s.temps.get t).getLsbD bit then s.advance else s.setHpc target)
  | .halt => .next s
  | .access a => accessOnly a s.advance

/-- The host's next statement, if its script has one. -/
def hostStmt (s : State) : Option HostStmt := s.script[s.hpc]?

/-- The host's turn. A host whose script has no next statement does nothing: it is never assumed to act (R135). -/
def hostTurn (s : State) : Host.Outcome State Fault Refusal :=
  match hostStmt s with
  | some st => execStmt st s
  | none => .next s

/-- One transition of the block and its host: an engine step, a host statement or a reset (00_scope.md R12). -/
def runTurn (t : Turn) (s : State) : Host.Outcome State Fault Refusal :=
  match t with
  | .host => hostTurn s
  | .engine => engineTurn s
  | .reset => .next (resetBlock s)

/-- The state with the host about to write `w` to CMD in the very next step, and the block ready to take it. -/
def withCommandWrite (s : State) (w : Word) : State :=
  { s with
    status := withBusy s.status false, script := [.wr Reg.cmd.offset w], hpc := 0, schedule := .host :: s.schedule }

end Sys2Proof.Machine
end

