-- ==== Sys2Proof/Machine/Step.lean ====
section
/-! DEFINITION. The step: the next transition in the one total order of 00_scope.md R12. -/

namespace Sys2Proof.Machine

/-- One transition, by whoever's turn it is. -/
def step (s : State) : Host.Outcome State Fault Refusal :=
  runTurn (nextTurn s).1 (nextTurn s).2

/-- The state with the command word `w` placed where the next step takes its command from: the block fetches nothing
(10_state.md R29), so the host's next statement is `wr CMD, w` and the next turn is the host's (log entry 4). A word longer
than one command does not exist (30_encoding.md R56); of one, the low 32 bits are placed. -/
def State.withFetchWord (s : State) (nbits w : Nat) : State :=
  withCommandWrite s (BitVec.ofNat 32 (w % 2 ^ nbits))

end Sys2Proof.Machine
end

