-- ==== Sys2Proof/Machine/Listing.lean ====
section
/-! DEFINITION. The listing of a run (30_encoding.md R64, R68): the transactions the host issues, in order, each with the
data it carries or returns, host-local statements left out. The script line beside each transaction is
Machine/ScriptListing.lean. -/

namespace Sys2Proof.Machine

/-- The line of a listing for a legal access that returned `v` (R64). -/
def accessLine (a : Access) (v : Word) : Option ListingLine :=
  match a with
  | .regWrite off _ data => some (.w off data)
  | .regRead off _ => some (.r off v)
  | .obufRead addr bytes => some (if bytes = 1 then .b addr (v.extractLsb' 0 8) else .d addr v)
  | .obufWrite _ _ _ => none

/-- The access a statement issues; none for the host's own control flow (R65). -/
def HostStmt.access? : HostStmt → Option Access
  | .wr off v => some (.regWrite off 4 v)
  | .rd off _ => some (.regRead off 4)
  | .rdb addr _ => some (.obufRead addr 1)
  | .rdw addr _ => some (.obufRead addr 4)
  | .jbs _ _ _ => none
  | .jbc _ _ _ => none
  | .halt => none
  | .access a => some a

/-- The access the next step issues, if it is the host's turn and its statement is a transaction. -/
def nextAccess (s : State) : Option Access :=
  match (nextTurn s).1 with
  | .host => (hostStmt s).bind HostStmt.access?
  | .engine => none
  | .reset => none

/-- The line the next step adds to the listing. -/
def stepLine (s : State) : Option ListingLine :=
  match nextAccess s with
  | some a =>
    match performAccess a (nextTurn s).2.advance with
    | .next r => accessLine a r.2
    | .fault _ => none
    | .refused _ => none
  | none => none

/-- The listing of the next `k` steps, up to the first stop. -/
def listing : Nat → State → List ListingLine
  | 0, _ => []
  | k + 1, s =>
    (stepLine s).toList ++
      match step s with
      | .next t => listing k t
      | .fault _ => []
      | .refused _ => []

end Sys2Proof.Machine
end

