-- ==== Sys2Proof/Machine/Assembler.lean ====
section
/-! DEFINITION. Host scripts as they are written (30_encoding.md R65, R66): register operands by name or offset, labels and
the pseudo-instructions with their expansions, and the translation to the statements the host runs. The text form stands in
Machine/ScriptText.lean. -/

namespace Sys2Proof.Machine

/-- A label, as its characters (R65). -/
abbrev Label := List Char

/-- A register operand: "either a register name of R16 or an offset literal" (R65). -/
inductive RegOperand where
  | name (r : Reg)
  | lit (off : Nat)
  deriving DecidableEq, Repr

/-- The offset an operand stands for. -/
def RegOperand.offset : RegOperand → Nat
  | .name r => r.offset
  | .lit off => off

/-- A statement or pseudo-instruction of a script (R65, R66). -/
inductive SrcStmt where
  | wr (r : RegOperand) (imm : Word)
  | rd (r : RegOperand) (t : Temp)
  | rdb (addr : Nat) (t : Temp)
  | rdw (addr : Nat) (t : Temp)
  | jbs (t : Temp) (bit : Fin 32) (label : Label)
  | jbc (t : Temp) (bit : Fin 32) (label : Label)
  | halt
  | cmd (i : Instr)
  | wait
  | seed (s : Word)
  | nextWord (t : Temp)
  | nextByte (t : Temp)
  | gen (w h i s : Word)
  deriving DecidableEq, Repr

/-- A line: an optional label and one statement (R65). -/
structure SrcLine where
  label : Option Label
  stmt : SrcStmt
  deriving DecidableEq, Repr

/-- `cmd i` is a write of the command's word to CMD (R66). -/
def cmdStmt (i : Instr) : HostStmt := .wr Reg.cmd.offset (encode i)

/-- `wait` at index `at`: `Lw: rd STATUS -> t7` then `jbs t7, 0, Lw` (R66). -/
def waitStmts (here : Nat) : List HostStmt := [.rd Reg.status.offset .t7, .jbs .t7 0 here]

/-- The expansion of a statement that stands at index `here` (R66); none where it jumps to a label the script lacks. -/
def expandStmt (find : Label → Option Nat) (here : Nat) : SrcStmt → Option (List HostStmt)
  | .wr r imm => some [.wr r.offset imm]
  | .rd r t => some [.rd r.offset t]
  | .rdb addr t => some [.rdb addr t]
  | .rdw addr t => some [.rdw addr t]
  | .jbs t bit label => (find label).map fun target => [.jbs t bit target]
  | .jbc t bit label => (find label).map fun target => [.jbc t bit target]
  | .halt => some [.halt]
  | .cmd i => some [cmdStmt i]
  | .wait => some (waitStmts here)
  | .seed s => some [.wr Reg.seed.offset s, cmdStmt .init]
  | .nextWord t => some [cmdStmt .nextWord, .rd Reg.result.offset t]
  | .nextByte t => some [cmdStmt .nextByte, .rd Reg.result.offset t]
  | .gen w h i s =>
    some ([.wr Reg.width.offset w, .wr Reg.height.offset h, .wr Reg.intensity.offset i, .wr Reg.seed.offset s,
      cmdStmt .generate] ++ waitStmts (here + 5))

/-- How many statements the expansion has. -/
def SrcStmt.count : SrcStmt → Nat
  | .wr _ _ => 1
  | .rd _ _ => 1
  | .rdb _ _ => 1
  | .rdw _ _ => 1
  | .jbs _ _ _ => 1
  | .jbc _ _ _ => 1
  | .halt => 1
  | .cmd _ => 1
  | .wait => 2
  | .seed _ => 2
  | .nextWord _ => 2
  | .nextByte _ => 2
  | .gen _ _ _ _ => 7

/-- The labels of a script with the index each stands for. -/
def labelIndex (here : Nat) : List SrcLine → List (Label × Nat)
  | [] => []
  | l :: rest =>
    match l.label with
    | some n => (n, here) :: labelIndex (here + l.stmt.count) rest
    | none => labelIndex (here + l.stmt.count) rest

/-- Expand the lines from index `here` on. -/
def expandLines (find : Label → Option Nat) (here : Nat) : List SrcLine → Option (List HostStmt)
  | [] => some []
  | l :: rest =>
    match expandStmt find here l.stmt, expandLines find (here + l.stmt.count) rest with
    | some now, some later => some (now ++ later)
    | _, _ => none

/-- The statements the host runs for a script (R65, R66); none where a label is missing or stands twice. -/
def assemble (lines : List SrcLine) : Option (List HostStmt) :=
  let labels := labelIndex 0 lines
  if (labels.map (·.1)).Nodup then expandLines (fun n => (labels.find? (·.1 == n)).map (·.2)) 0 lines else none

end Sys2Proof.Machine
end

