-- ==== Sys2Proof/Machine/ScriptText.lean ====
section
/-! DEFINITION. The text of a host script (30_encoding.md R65, R66): comments, labels, decimal and hexadecimal literals,
register names, temporaries, the seven statements and the pseudo-instructions. `loadText` reads a text into the statements
the host runs; what it cannot read it answers none for. What R65 leaves open of the text is log entry 9. -/

namespace Sys2Proof.Machine

/-- A token of a line. -/
inductive Token where
  | word (cs : List Char)
  | comma
  | colon
  | arrow
  deriving DecidableEq, Repr

/-- The word read so far (its characters in reverse), as a token. -/
def flushWord : List Char → List Token
  | [] => []
  | c :: cs => [.word (c :: cs).reverse]

/-- Whether a character stands in words: names, labels and literals. -/
def isWordChar (c : Char) : Bool := c.isAlphanum || c == '_'

/-- The tokens of a line. A `;` starts a comment that runs to the end of the line (R65). -/
def tokens (cur : List Char) : List Char → Option (List Token)
  | [] => some (flushWord cur)
  | '-' :: '>' :: cs => (tokens [] cs).map fun ts => flushWord cur ++ .arrow :: ts
  | c :: cs =>
    if c == ';' then some (flushWord cur)
    else if c == ',' then (tokens [] cs).map fun ts => flushWord cur ++ .comma :: ts
    else if c == ':' then (tokens [] cs).map fun ts => flushWord cur ++ .colon :: ts
    else if c.isWhitespace then (tokens [] cs).map fun ts => flushWord cur ++ ts
    else if isWordChar c then tokens (c :: cur) cs
    else none

/-- The value of a digit in a base of at most 16. -/
def digitValue (base : Nat) (c : Char) : Option Nat :=
  let v :=
    if c.isDigit then c.toNat - '0'.toNat
    else if 'a'.toNat ≤ c.toNat ∧ c.toNat ≤ 'f'.toNat then c.toNat - 'a'.toNat + 10
    else if 'A'.toNat ≤ c.toNat ∧ c.toNat ≤ 'F'.toNat then c.toNat - 'A'.toNat + 10
    else 16
  if v < base then some v else none

/-- The value of a sequence of digits, most significant first, after `acc`. -/
def digitsValue (base : Nat) (acc : Nat) : List Char → Option Nat
  | [] => some acc
  | c :: cs => (digitValue base c).bind fun d => digitsValue base (base * acc + d) cs

/-- A numeric literal: decimal (`255`) or hexadecimal (`0xFF`), unsigned (R65). -/
def literal : List Char → Option Nat
  | [] => none
  | ['0', 'x'] => none
  | '0' :: 'x' :: c :: cs => digitsValue 16 0 (c :: cs)
  | c :: cs => digitsValue 10 0 (c :: cs)

/-- A 32-bit immediate (R65): a literal below 2^32. -/
def immediate (cs : List Char) : Option Word :=
  (literal cs).bind fun n => if n < 2 ^ 32 then some (BitVec.ofNat 32 n) else none

/-- A bit number of a temporary, 0 .. 31. -/
def bitNumber (cs : List Char) : Option (Fin 32) :=
  (literal cs).bind fun n => if h : n < 32 then some ⟨n, h⟩ else none

/-- The name a list of names pairs with a text. -/
def named {α : Type} (names : List (String × α)) (cs : List Char) : Option α :=
  (names.find? fun p => p.1.toList == cs).map (·.2)

/-- The register names (R16, R65). -/
def regNames : List (String × Reg) :=
  [("CMD", .cmd), ("STATUS", .status), ("WIDTH", .width), ("HEIGHT", .height), ("INTENSITY", .intensity),
    ("SEED", .seed)]
  ++ [("STATE", .state), ("RESULT", .result), ("LENGTH_LO", .lengthLo), ("LENGTH_HI", .lengthHi), ("PIX_X", .pixX),
    ("PIX_Y", .pixY)]

/-- The names of the temporaries (R65). -/
def tempNames : List (String × Temp) :=
  [("t0", .t0), ("t1", .t1), ("t2", .t2), ("t3", .t3), ("t4", .t4), ("t5", .t5), ("t6", .t6), ("t7", .t7)]

/-- The mnemonics of the commands (R59, R66). -/
def commandNames : List (String × Instr) :=
  [("INIT", .init), ("NEXT_WORD", .nextWord), ("NEXT_BYTE", .nextByte), ("GENERATE", .generate)]

/-- A register operand: a register name or an offset literal (R65). -/
def regOperand (cs : List Char) : Option RegOperand :=
  match named regNames cs with
  | some r => some (.name r)
  | none => (literal cs).map .lit

/-- The first word of a statement (R65, R66). -/
inductive Keyword where
  | wr | rd | rdb | rdw | jbs | jbc | halt | cmd | wait | seed | nextWord | nextByte | gen
  deriving DecidableEq, Repr

/-- The keywords as they are written. -/
def keywords : List (String × Keyword) :=
  [("wr", .wr), ("rd", .rd), ("rdb", .rdb), ("rdw", .rdw), ("jbs", .jbs), ("jbc", .jbc), ("halt", .halt)]
  ++ [("cmd", .cmd), ("wait", .wait), ("seed", .seed), ("next_word", .nextWord), ("next_byte", .nextByte),
    ("gen", .gen)]

/-- A statement from its keyword and the tokens after it; none where the two do not fit (R65, R66). -/
def statement (k : Keyword) (ts : List Token) : Option SrcStmt :=
  match k, ts with
  | .wr, [.word r, .comma, .word v] => (regOperand r).bind fun r => (immediate v).map fun v => .wr r v
  | .rd, [.word r, .arrow, .word t] => (regOperand r).bind fun r => (named tempNames t).map fun t => .rd r t
  | .rdb, [.word a, .arrow, .word t] => (literal a).bind fun a => (named tempNames t).map fun t => .rdb a t
  | .rdw, [.word a, .arrow, .word t] => (literal a).bind fun a => (named tempNames t).map fun t => .rdw a t
  | .jbs, [.word t, .comma, .word b, .comma, .word l] =>
    (named tempNames t).bind fun t => (bitNumber b).map fun b => .jbs t b l
  | .jbc, [.word t, .comma, .word b, .comma, .word l] =>
    (named tempNames t).bind fun t => (bitNumber b).map fun b => .jbc t b l
  | .halt, [] => some .halt
  | .cmd, [.word c] => (named commandNames c).map .cmd
  | .wait, [] => some .wait
  | .seed, [.word v] => (immediate v).map .seed
  | .nextWord, [.arrow, .word t] => (named tempNames t).map .nextWord
  | .nextByte, [.arrow, .word t] => (named tempNames t).map .nextByte
  | .gen, [.word w, .comma, .word h, .comma, .word i, .comma, .word s] =>
    (immediate w).bind fun w => (immediate h).bind fun h => (immediate i).bind fun i =>
      (immediate s).map fun s => .gen w h i s
  | _, _ => none

/-- The statement whose first token is its keyword. -/
def statementOf : List Token → Option SrcStmt
  | .word k :: ts => (named keywords k).bind fun k => statement k ts
  | .comma :: _ => none
  | .colon :: _ => none
  | .arrow :: _ => none
  | [] => none

/-- A line with something on it: an optional `label:` and one statement (R65). -/
def lineOf (ts : List Token) : Option SrcLine :=
  match ts with
  | .word l :: .colon :: rest => (statementOf rest).map fun st => ⟨some l, st⟩
  | ts => (statementOf ts).map fun st => ⟨none, st⟩

/-- The lines of a text. -/
def splitLines (cur : List Char) : List Char → List (List Char)
  | [] => [cur.reverse]
  | c :: cs => if c == '\n' then cur.reverse :: splitLines [] cs else splitLines (c :: cur) cs

/-- Read lines; one that holds only a comment, or nothing, is no statement. -/
def parseLines : List (List Char) → Option (List SrcLine)
  | [] => some []
  | l :: rest =>
    match tokens [] l with
    | none => none
    | some [] => parseLines rest
    | some (t :: ts) => (lineOf (t :: ts)).bind fun now => (parseLines rest).map fun later => now :: later

/-- The lines of a script text (R65, R66). -/
def parseScript (text : List Char) : Option (List SrcLine) := parseLines (splitLines [] text)

/-- The statements the host runs for a script text, with every label resolved and every pseudo-instruction expanded. -/
def loadText (text : List Char) : Option (List HostStmt) := (parseScript text).bind assemble

/-- The state whose host is about to run this script from its first statement. -/
def State.withScript (s : State) (script : List HostStmt) : State := { s with script := script, hpc := 0 }

end Sys2Proof.Machine
end

