-- ==== Sys2Proof/Machine/ScriptListing.lean ====
section
/-! DEFINITION. The listing of a script (30_encoding.md R68): the transactions of its run under a stated schedule, one to a line,
each with the script line it comes from beside it; and the written form of a transaction (R64). -/

namespace Sys2Proof.Machine

/-! ## The script line beside a transaction -/

/-- Which line of a script the statement at index `i` of its expansion comes from (R66, R68). -/
def lineIndex : List SrcLine → Nat → Option Nat
  | [], _ => none
  | l :: rest, i => if i < l.stmt.count then some 0 else (lineIndex rest (i - l.stmt.count)).map (· + 1)

/-- The line of a script the statement at index `i` of its expansion comes from. -/
def sourceLine (lines : List SrcLine) (i : Nat) : Option SrcLine := (lineIndex lines i).bind fun n => lines[n]?

/-- The written lines that hold a statement, in order: those `parseLines` reads one from. -/
def statementTexts (text : List Char) : List (List Char) :=
  (splitLines [] text).filter fun l => !(tokens [] l == some [])

/-- The written line, of a text with these lines, that the statement at index `i` comes from. -/
def sourceText (text : List Char) (lines : List SrcLine) (i : Nat) : Option (List Char) :=
  (lineIndex lines i).bind fun n => (statementTexts text)[n]?

/-! ## The listing -/

/-- A line of a listing: one transaction, and beside it the script line it comes from (R68). -/
structure ListingRow (α : Type) where
  transaction : ListingLine
  source : Option α
  deriving DecidableEq, Repr

/-- The row the next step adds: its transaction, if it makes one, beside the line of the host's statement. -/
def stepRow {α : Type} (source : Nat → Option α) (s : State) : Option (ListingRow α) :=
  (stepLine s).map fun t => ⟨t, source s.hpc⟩

/-- The rows of the next `k` steps, up to the first stop. -/
def listingRows {α : Type} (source : Nat → Option α) : Nat → State → List (ListingRow α)
  | 0, _ => []
  | k + 1, s =>
    (stepRow source s).toList ++
      match step s with
      | .next t => listingRows source k t
      | .fault _ => []
      | .refused _ => []

/-- The listing of a script for a stated schedule: the rows of `k` steps of the host that runs it, from `s` (R68). None where
the script does not assemble. -/
def scriptListing (lines : List SrcLine) (schedule : List Turn) (k : Nat) (s : State) :
    Option (List (ListingRow SrcLine)) :=
  (assemble lines).map fun script => listingRows (sourceLine lines) k ((s.withScript script).setSchedule schedule)

/-- The listing of a script text for a stated schedule, each row beside its line as it is written. -/
def textListing (text : List Char) (schedule : List Turn) (k : Nat) (s : State) :
    Option (List (ListingRow (List Char))) :=
  (parseScript text).bind fun lines => (assemble lines).map fun script =>
    listingRows (sourceText text lines) k ((s.withScript script).setSchedule schedule)

/-! ## The written form of a transaction (R64) -/

/-- A hexadecimal digit. -/
def hexDigit (n : Nat) : Char := (['0', '1', '2', '3', '4', '5', '6', '7'] ++ ['8', '9', 'A', 'B', 'C', 'D', 'E', 'F']).getD n '0'

/-- The last `width` hexadecimal digits of a number. -/
def hexDigits : Nat → Nat → List Char
  | 0, _ => []
  | width + 1, n => hexDigits width (n / 16) ++ [hexDigit (n % 16)]

/-- A number in hexadecimal with exactly `width` digits. -/
def hexFixed (width n : Nat) : List Char := '0' :: 'x' :: hexDigits width n

/-- An OBUF address in hexadecimal, without leading zeros. An address has at most 62 bits (00_scope.md R5). -/
def hexAddress (n : Nat) : List Char :=
  match (hexDigits 16 n).dropWhile (· == '0') with
  | [] => ['0', 'x', '0']
  | c :: cs => '0' :: 'x' :: c :: cs

/-- A byte in decimal, without leading zeros. -/
def decimalByte (b : Byte) : List Char :=
  let n := b.toNat
  (if 100 ≤ n then [hexDigit (n / 100)] else []) ++ (if 10 ≤ n then [hexDigit (n / 10 % 10)] else []) ++ [hexDigit (n % 10)]

/-- A transaction in the listing form of R64, its numerals as 95_test_vectors.md writes them (log entry 9). -/
def ListingLine.written : ListingLine → List Char
  | .w off data => "W ".toList ++ hexFixed 2 off ++ " ".toList ++ hexFixed 8 data.toNat
  | .r off data => "R ".toList ++ hexFixed 2 off ++ " -> ".toList ++ hexFixed 8 data.toNat
  | .b addr data => "B ".toList ++ hexAddress addr ++ " -> ".toList ++ decimalByte data
  | .d addr data => "D ".toList ++ hexAddress addr ++ " -> ".toList ++ hexFixed 8 data.toNat

end Sys2Proof.Machine
end

