-- ==== Sys2Proof/Safety.lean ====
section
/-! DEFINITION. What counts as a safe run, in the terms the statements use: the invariant of every reachable state
(10_state.md R26, R28; 41_buffer_writer.md R85, R93, R95), the end of a run and what it shows (42_host_interface.md R106; 30_encoding.md R68), and a sequence of
commands with no engine step between them (40_lcg_engine.md R80). -/

namespace Sys2Proof.Machine

/-- The quad of a noise byte stands at byte address `a` of the memory (R87, R42). -/
abbrev quadAt (m : Memory) (a : Nat) (n : Byte) : Prop :=
  m.read? a = some n ∧ m.read? (a + 1) = some n ∧ m.read? (a + 2) = some n ∧ m.read? (a + 3) = some 0xFF#8

/-- `b_p = sample(lcg_step^(p+1)(seed))`, the noise byte of pixel `p` (R91). -/
def noiseByte (seed : Word) (p : Nat) : Byte := sample (lcgIter (p + 1) seed)

/-- The pixels below `k` hold the noise of `seed` (R91). -/
abbrev pixelsDone (m : Memory) (seed : Word) (k : Nat) : Prop :=
  ∀ p, p < k → quadAt m (4 * p) (noiseByte seed p)

/-- STATUS invariants (R26). -/
structure StatusInv (w : Word) : Prop where
  busyClean : statusBusy w = true → statusDone w = false ∧ statusErr w = false ∧ statusErrcode w = 0#8
  errIffCode : statusErr w = true ↔ statusErrcode w ≠ 0#8
  errDone : statusErr w = true → statusDone w = true
  reserved : w &&& 0xFFFF00F0#32 = 0#32

/-- Iterator invariant while BUSY = 1 (R28), with the size check passed (R85), no result yet (R86) and every pixel before
the next one written (R89, R91). -/
structure BusyInv (s : State) : Prop where
  xLt : s.x.toNat < s.width.toNat
  yLt : s.y.toNat < s.height.toNat
  waddrEq : s.waddr = 4 * pixIndex s
  stateEq : s.state = lcgIter (pixIndex s) s.seed
  sizeFits : size s ≤ s.cfg.obufCap
  noResult : s.length = 0#64
  written : pixelsDone s.obuf s.seed (pixIndex s)

/-- The invariant of every reachable state: the parameters are legal (R5, R6), OBUF is in canonical form and inside its
storage (R40), STATUS and the iterator are as R26 and R28 say, LENGTH and WADDR stay within OBUF_CAP (R23, R85), and what
LENGTH reports as a result is whole quads `[n, n, n, 255]`, every byte of them written (R93, R95). -/
structure Inv (s : State) : Prop where
  cfgWf : s.cfg.wf
  obufWf : s.obuf.wf
  obufInside : ∀ c ∈ s.obuf, c.1 < s.cfg.obufCap
  status : StatusInv s.status
  waddrLe : s.waddr ≤ s.cfg.obufCap
  lengthLe : s.length.toNat ≤ s.cfg.obufCap
  lengthQuads : 4 ∣ s.length.toNat
  resultQuads : ∀ p, 4 * p < s.length.toNat → ∃ n, quadAt s.obuf (4 * p) n
  busy : s.busy = true → BusyInv s

/-- A run of a host script has ended: the host has reached `halt` and BUSY = 0 (R106). -/
def runEnded (s : State) : Bool := hostStmt s == some .halt && !s.busy

/-- Two states show the same observation: the register values and the OBUF bytes (R106). DESIGN CHOICE, log entry 15: R106 does not
say whether the register values include WADDR, which the host cannot read (10_state.md R27, R37); here they do, as
70_reset_and_hazards.md R124 counts it among the registers and the end states of 95_test_vectors.md list it. -/
structure SameObservation (s t : State) : Prop where
  registers : ∀ r, readReg r s = readReg r t
  waddr : s.waddr = t.waddr
  bytes : ∀ a, s.obuf.read? a = t.obuf.read? a

/-- What a listing of a script needs of its script (30_encoding.md R68): "the end state must not depend on that choice" of the
schedule. Every two runs that end, under whatever turns of host and engine, end in the same observation. -/
def EndStateFixed (script : List HostStmt) (s : State) : Prop :=
  ∀ (l l' : List Turn) (k k' : Nat) (t t' : State), Turn.reset ∉ l → Turn.reset ∉ l' →
    Host.Core.run Sys2Proof.core k ((s.withScript script).setSchedule l) = .next t → runEnded t = true →
    Host.Core.run Sys2Proof.core k' ((s.withScript script).setSchedule l') = .next t' → runEnded t' = true →
    SameObservation t t'

/-- BUSY, DONE, ERR, OVR and ERRCODE of a state (R24). -/
def State.flags (s : State) : Bool × Bool × Bool × Bool × Byte := (s.busy, s.done, s.err, s.ovr, s.errcode)

/-- The register write the next step performs, as (offset, data), if it performs one (42_host_interface.md R97). -/
def nextRegWrite (s : State) : Option (Nat × Word) :=
  match nextAccess s with
  | some (.regWrite off bytes v) => if bytes = 4 then some (off, v) else none
  | some (.regRead _ _) => none
  | some (.obufRead _ _) => none
  | some (.obufWrite _ _ _) => none
  | none => none

/-- The word of the CMD write the next step takes, if it takes one: it arrives while BUSY = 0 (R99). -/
def takenWord (s : State) : Option Word :=
  match nextRegWrite s with
  | some (off, w) => if off = Reg.cmd.offset ∧ s.busy = false then some w else none
  | none => none

/-- The command the next step takes, if it takes a legal one. -/
def takenCommand (s : State) : Option Instr :=
  match takenWord s with
  | some w =>
    match decode w with
    | .ok i => some i
    | .error _ => none
  | none => none

/-- The sequence of command takes with these commands, each taken while the one before it has completed. -/
def takeAll : List Instr → State → Host.Outcome State Fault Refusal
  | [], s => .next s
  | i :: rest, s => onNext (takeCommand (encode i) s) (takeAll rest)

end Sys2Proof.Machine
end

