-- ==== Sys2Proof/Certificates/Slice0/Obligations.lean ====
section
/-! DEFINITION. The statements for the provers, in the order of spec/: encoding, the LCG engine, the buffer writer, the host
interface, errors, reset, and the rules of the whole machine. A statement of an effect names every field that may
change and says that the state is otherwise the same, so it is the instruction's frame as well. -/

open Sys2Proof Sys2Proof.Machine

/-! ## Encoding and the step (30_encoding.md; 42_host_interface.md R99) -/

/-- R59, vectors V20 of 95_test_vectors.md: the command words of the table, and some that are illegal. -/
def Obligations.TableWordsDecodeToTheirCommands : Prop :=
  decode 0x00000001#32 = .ok .init ∧ decode 0x00000002#32 = .ok .nextWord
    ∧ decode 0x00000003#32 = .ok .nextByte ∧ decode 0x00000004#32 = .ok .generate
    ∧ decodeTableWord 32 0x00000001 = some .init ∧ decodeTableWord 32 0x00000004 = some .generate
    ∧ decode 0x00000000#32 = .error .unknownOp ∧ decode 0x00000005#32 = .error .unknownOp
    ∧ decode 0x000000FF#32 = .error .unknownOp ∧ decode 0x00000104#32 = .error .reservedBits
    ∧ decode 0x80000001#32 = .error .reservedBits ∧ decode 0xFFFFFFFF#32 = .error .reservedBits

/-- R58: decoding is total, the legal words are exactly the four encodings, each with its own meaning, and a taken word that is
`Illegal` completes with ILLEGAL_CMD. -/
def Obligations.ExactlyFourWordsAreLegal : Prop :=
  (∀ (w : Word) (i : Instr), decode w = .ok i ↔ w = encode i)
    ∧ encode .init = 0x00000001#32 ∧ encode .nextWord = 0x00000002#32
    ∧ encode .nextByte = 0x00000003#32 ∧ encode .generate = 0x00000004#32
    ∧ (∀ w : Word, (∃ e, decode w = .error e) ↔ w ≠ 1#32 ∧ w ≠ 2#32 ∧ w ≠ 3#32 ∧ w ≠ 4#32)
    ∧ (∀ (w : Word) (s : State), (∃ e, decode w = .error e) →
        ∃ t, takeCommand w s = .next t ∧ t.done = true ∧ t.err = true ∧ t.errcode = 0x01#8)

/-- R61: every word with RSV != 0, and every word with RSV = 0 and OP outside 0x01 .. 0x04, is taken, completes with an error
and changes no state outside STATUS. -/
def Obligations.IllegalWordsChangeOnlyStatus : Prop :=
  ∀ (w : Word) (s : State),
    (fieldRsv w ≠ 0#24 ∨ (fieldOp w ≠ 0x01#8 ∧ fieldOp w ≠ 0x02#8 ∧ fieldOp w ≠ 0x03#8 ∧ fieldOp w ≠ 0x04#8)) →
    s.busy = false →
      ∃ t, performAccess (.regWrite 0x00 4 w) s = .next (t, 0#32) ∧ t = { s with status := t.status }
        ∧ t.flags = (false, true, true, false, 0x01#8)

/-- A step runs the decoded command: when the next transition is the host's and its statement writes a word to CMD while
BUSY = 0, the step is `exec` of the command the word decodes to, on the state whose turn is taken off, whose host has passed
the write and whose record is cleared (R99); an illegal word is reported. How the host's write comes to be next is the
model's: DESIGN CHOICE, log entries 4 and 5. -/
def Obligations.StepTakesTheCommandWritten : Prop :=
  (∀ (s : State) (w : Word) (i : Instr), (nextTurn s).1 = .host → hostStmt s = some (.wr 0x00 w) → s.busy = false →
      decode w = .ok i → step s = exec i (clearRecord (nextTurn s).2.advance))
    ∧ (∀ (s : State) (w : Word) (e : Illegal), (nextTurn s).1 = .host → hostStmt s = some (.wr 0x00 w) →
        s.busy = false → decode w = .error e →
        step s = .next (raiseCmdError .illegalCmd (clearRecord (nextTurn s).2.advance)))

/-- R99: a CMD write that arrives while BUSY = 0 clears DONE, ERR, OVR and ERRCODE and performs the command its word decodes to,
or reports ILLEGAL_CMD, in the same transaction, at whose end DONE = 1 or BUSY = 1. -/
def Obligations.TakeClearsTheRecordAndPerforms : Prop :=
  (∀ (s u : State) (w : Word) (i : Instr), s.busy = false → decode w = .ok i → exec i (clearRecord s) = .next u →
      performAccess (.regWrite 0x00 4 w) s = .next (u, 0#32))
    ∧ (∀ (s : State) (w : Word) (e : Illegal), s.busy = false → decode w = .error e →
        performAccess (.regWrite 0x00 4 w) s = .next (raiseCmdError .illegalCmd (clearRecord s), 0#32)
          ∧ (raiseCmdError .illegalCmd (clearRecord s)).flags = (false, true, true, false, 0x01#8))
    ∧ (∀ s : State, clearRecord s = { s with status := (clearRecord s).status }
        ∧ (clearRecord s).flags = (s.busy, false, false, false, 0x00#8))
    ∧ (∀ (s : State) (w : Word), s.busy = false →
        ∃ t, performAccess (.regWrite 0x00 4 w) s = .next (t, 0#32) ∧ (t.done = true ∨ t.busy = true))

/-- The host's hook runs exactly the command placed: DESIGN CHOICE, log entry 4 (the block fetches nothing, R29, so the word is
placed as the host's next write to CMD, with BUSY = 0 and the host's turn next). -/
def Obligations.PlacedWordIsTheNextCommand : Prop :=
  ∀ (s : State) (w : Nat) (i : Instr), decodeTableWord 32 w = some i →
    step (s.withFetchWord 32 w)
      = exec i (clearRecord
          { s with status := withBusy s.status false, script := [.wr 0x00 (BitVec.ofNat 32 w)], hpc := 1 })

/-- R12, R88 and DESIGN CHOICE, log entry 5: each step is one transition of the agent whose turn the schedule names; with none
named, the engine goes first while BUSY = 1, the host otherwise. -/
def Obligations.EachStepIsOneAgentsTransition : Prop :=
  (∀ (s : State) (r : List Turn), s.schedule = .host :: r → step s = hostTurn (s.setSchedule r))
    ∧ (∀ (s : State) (r : List Turn), s.schedule = .engine :: r → s.busy = true → step s = pixelStep (s.setSchedule r))
    ∧ (∀ (s : State) (r : List Turn), s.schedule = .engine :: r → s.busy = false → step s = .next (s.setSchedule r))
    ∧ (∀ (s : State) (r : List Turn), s.schedule = .reset :: r → step s = runTurn .reset (s.setSchedule r))
    ∧ (∀ s : State, s.schedule = [] → s.busy = true → step s = pixelStep s)
    ∧ (∀ s : State, s.schedule = [] → s.busy = false → step s = hostTurn s)

/-! ## The LCG engine (40_lcg_engine.md) -/

/-- R69, R70: the constants; the update is the exact product and sum reduced mod 2^32; the product is below 2^53; reducing after each operation
gives the same value. -/
def Obligations.LcgStepIsTheWrappedMultiplyAdd : Prop :=
  lcgA = 0x0019660D#32 ∧ lcgC = 0x3C6EF35F#32
    ∧ ∀ s : Word, (lcgStep s).toNat = (s.toNat * 1664525 + 1013904223) % 2 ^ 32
    ∧ s.toNat * 1664525 < 2 ^ 53
    ∧ (lcgStep s).toNat = ((s.toNat * 1664525) % 2 ^ 32 + 1013904223) % 2 ^ 32

/-- R71: the sample is bits [31:24], `floor(s / 2^24)`; NEXT_BYTE takes it from the new state; the arithmetic shift gives the
same byte. -/
def Obligations.SampleIsTheTopByteOfTheNewState : Prop :=
  (∀ s : Word, (sample s).toNat = s.toNat / 2 ^ 24)
    ∧ (∀ (s : Word) (k : Nat), k < 8 → (sample s).getLsbD k = s.getLsbD (24 + k))
    ∧ (∀ s : Word, BitVec.setWidth 8 (s.sshiftRight 24) = sample s)
    ∧ (∀ s : State, ∃ t, exec .nextByte s = .next t ∧ t.result = BitVec.setWidth 32 (sample (lcgStep s.state)))

/-- R73: INIT sets STATE from SEED, sets DONE and leaves everything else, whatever SEED is; with its encoding, corner cases and
example. -/
def Obligations.InitSeedsTheState : Prop :=
  (∀ s : State, ∃ t, exec .init s = .next t ∧ t = { s with state := s.seed, status := t.status }
      ∧ t.flags = (s.busy, true, s.err, s.ovr, s.errcode))
    ∧ encode .init = 0x00000001#32
    ∧ (∀ s : State, s.seed = 0#32 → ∃ t, takeAll [.init, .nextWord] s = .next t ∧ t.result = 1013904223#32)
    ∧ (∀ s : State, ∃ t, takeAll [.init, .init] s = .next t ∧ t.state = s.seed)
    ∧ (∀ s : State, s.seed = 0x12345678#32 → s.busy = false → s.status &&& 0xFFFF00F0#32 = 0#32 →
        ∃ t, takeCommand 0x00000001#32 s = .next t ∧ t.state = 0x12345678#32 ∧ t.status = 0x00000002#32)

/-- R74: NEXT_WORD advances STATE, returns the new state word in RESULT, sets DONE and leaves everything else; with its
encoding, corner cases and example. -/
def Obligations.NextWordReturnsTheNewState : Prop :=
  (∀ s : State, ∃ t, exec .nextWord s = .next t
      ∧ t = { s with state := lcgStep s.state, result := lcgStep s.state, status := t.status }
      ∧ t.flags = (s.busy, true, s.err, s.ovr, s.errcode))
    ∧ encode .nextWord = 0x00000002#32
    ∧ lcgStep 0#32 = 0x3C6EF35F#32 ∧ lcgStep 0xFFFFFFFF#32 = 0x3C558D52#32
    ∧ (∀ v : Word, lcgStep v ≠ v)
    ∧ (∀ s : State, s.seed = 0#32 → ∃ t, takeAll [.init, .nextWord] s = .next t ∧ t.result = 0x3C6EF35F#32
        ∧ t.state = 0x3C6EF35F#32)

/-- R75: NEXT_BYTE advances STATE once, returns the top byte of the new state zero-extended in RESULT, sets DONE and leaves
everything else; with its encoding, corner cases and example. -/
def Obligations.NextByteReturnsTheTopByte : Prop :=
  (∀ s : State, ∃ t, exec .nextByte s = .next t
      ∧ t = { s with
          state := lcgStep s.state, result := BitVec.setWidth 32 (sample (lcgStep s.state)), status := t.status }
      ∧ t.flags = (s.busy, true, s.err, s.ovr, s.errcode)
      ∧ t.result.toNat = (lcgStep s.state).toNat / 2 ^ 24 ∧ t.result.toNat ≤ 255)
    ∧ encode .nextByte = 0x00000003#32
    ∧ (∀ s : State, s.seed = 0#32 → ∃ t, takeAll [.init, .nextByte] s = .next t ∧ t.result = 0x0000003C#32
        ∧ t.state = 0x3C6EF35F#32)

/-- R72: INIT, NEXT_WORD and NEXT_BYTE finish inside the transaction that takes them, with DONE = 1 and BUSY, ERR, ERRCODE and
OVR 0; the next host read sees their results; they have no engine step and write none of WIDTH, HEIGHT, INTENSITY, SEED, LENGTH, X, Y, WADDR and OBUF. -/
def Obligations.LcgCommandsFinishInTheirTake : Prop :=
  ∀ (i : Instr) (s : State), i = .init ∨ i = .nextWord ∨ i = .nextByte → s.busy = false →
    ∃ t, performAccess (.regWrite 0x00 4 (encode i)) s = .next (t, 0#32)
      ∧ t.flags = (false, true, false, false, 0x00#8)
      ∧ t = { s with state := t.state, result := t.result, status := t.status }
      ∧ engineTurn t = .next t
      ∧ performAccess (.regRead 0x18 4) t = .next (t, t.state)
      ∧ performAccess (.regRead 0x1C 4) t = .next (t, t.result)
      ∧ performAccess (.regRead 0x04 4) t = .next (t, 0x00000002#32)

/-- R76: `lcg_step` is a bijection with the inverse the rule gives, and distinct seeds give distinct states at every step. -/
def Obligations.LcgStepIsABijection : Prop :=
  1664525#32 * 4276115653#32 = 1#32 ∧ 4276115653 = 0xFEE058C5
    ∧ (∀ t : Word, lcgStep ((t - 1013904223#32) * 4276115653#32) = t)
    ∧ (∀ s : Word, (lcgStep s - 1013904223#32) * 4276115653#32 = s)
    ∧ (∀ (k : Nat) (s s' : Word), lcgIter k s = lcgIter k s' → s = s')

/-- R77, with the two conditions of its theorem on the constants: from any state the next 2^32 states are all values, each once, and the sequence returns exactly at the multiples of
2^32. -/
def Obligations.LcgHasFullPeriod : Prop :=
  (∀ (s : Word) (k : Nat), lcgIter k s = s ↔ 2 ^ 32 ∣ k)
    ∧ (∀ s v : Word, ∃! k : Nat, 1 ≤ k ∧ k ≤ 2 ^ 32 ∧ lcgIter k s = v)
    ∧ lcgC.toNat % 2 = 1 ∧ (lcgA.toNat - 1) % 4 = 0

/-- R78: the low k bits of the next state depend only on the low k bits of the state and repeat with period exactly 2^k; bit 0
alternates, so no state is a fixed point. -/
def Obligations.LowBitsHaveShortPeriods : Prop :=
  (∀ (k : Nat) (s s' : Word), 1 ≤ k → k ≤ 32 → s.toNat % 2 ^ k = s'.toNat % 2 ^ k →
      (lcgStep s).toNat % 2 ^ k = (lcgStep s').toNat % 2 ^ k)
    ∧ (∀ (k n : Nat) (s : Word), 1 ≤ k → k ≤ 32 →
        ((lcgIter n s).toNat % 2 ^ k = s.toNat % 2 ^ k ↔ 2 ^ k ∣ n))
    ∧ (∀ s : Word, (lcgStep s).getLsbD 0 = !s.getLsbD 0)
    ∧ (∀ s : Word, lcgStep s ≠ s)

/-- R80: after an INIT, the j-th of any mix of NEXT_WORD and NEXT_BYTE commands sees and leaves `lcg_step^j(SEED)` and writes
RESULT from it; with the closed form of `lcg_step^j`. -/
def Obligations.SequenceAfterInit : Prop :=
  (∀ (s : State) (l : List Instr), (∀ i ∈ l, i = .nextWord ∨ i = .nextByte) →
      ∃ t, takeAll (.init :: l) s = .next t ∧ t.state = lcgIter l.length s.seed)
    ∧ (∀ (s : State) (l : List Instr) (last : Instr), (∀ i ∈ l, i = .nextWord ∨ i = .nextByte) →
        last = .nextWord ∨ last = .nextByte →
        ∃ t, takeAll (.init :: (l ++ [last])) s = .next t
          ∧ t.result = (if last = .nextWord then lcgIter (l.length + 1) s.seed
              else BitVec.setWidth 32 (sample (lcgIter (l.length + 1) s.seed))))
    ∧ (∀ (j : Nat) (s : Word), (lcgIter j s).toNat
        = (1664525 ^ j * s.toNat + 1013904223 * ((List.range j).map (fun e => 1664525 ^ e)).sum) % 2 ^ 32)

/-! ## The buffer writer (41_buffer_writer.md) -/

/-- R81: the size computation is exact. -/
def Obligations.SizeIsExact : Prop :=
  ∀ s : State, npix s = s.width.toNat * s.height.toNat ∧ npix s ≤ (2 ^ 32 - 1) ^ 2 ∧ npix s < 2 ^ 64
    ∧ size s = 4 * npix s ∧ size s ≤ 2 ^ 66 - 2 ^ 35 + 4 ∧ size s < 2 ^ 66

/-- R84: a GENERATE whose size does not fit ends at once in its error, with LENGTH 0 and nothing else changed; a size of
2^ADDR_W is no overflow and passes when OBUF_CAP is 2^ADDR_W. -/
def Obligations.OversizedGenerateFails : Prop :=
  (∀ s : State, size s > 2 ^ s.cfg.addrW →
      ∃ t, exec .generate s = .next t ∧ t = { s with length := 0#64, status := t.status }
        ∧ t.flags = (s.busy, true, true, s.ovr, 0x02#8))
    ∧ (∀ s : State, size s ≤ 2 ^ s.cfg.addrW → size s > s.cfg.obufCap →
        ∃ t, exec .generate s = .next t ∧ t = { s with length := 0#64, status := t.status }
          ∧ t.flags = (s.busy, true, true, s.ovr, 0x03#8))
    ∧ (∀ s : State, size s = 2 ^ s.cfg.addrW → s.cfg.obufCap = 2 ^ s.cfg.addrW →
        ∃ t, exec .generate s = .next t ∧ t.flags = (true, s.done, s.err, s.ovr, s.errcode))

/-- R86: when the size check passes, the acceptance seeds STATE, restarts the iterator, clears LENGTH, and sets BUSY, or, with
no pixel, completes at once; RESULT, OBUF and everything else are left. -/
def Obligations.AcceptedGenerateStarts : Prop :=
  (∀ s : State, size s ≤ 2 ^ s.cfg.addrW → size s ≤ s.cfg.obufCap → npix s ≠ 0 →
      ∃ t, exec .generate s = .next t
        ∧ t = { s with
            state := s.seed, x := 0#32, y := 0#32, waddr := 0, length := 0#64, status := t.status }
        ∧ t.flags = (true, s.done, s.err, s.ovr, s.errcode))
    ∧ (∀ s : State, npix s = 0 →
        ∃ t, exec .generate s = .next t
          ∧ t = { s with
              state := s.seed, x := 0#32, y := 0#32, waddr := 0, length := 0#64, status := t.status }
          ∧ t.flags = (false, true, s.err, s.ovr, s.errcode))

/-- R94: a GENERATE of zero pixels passes the size check for every ADDR_W and OBUF_CAP and completes inside its take with an
empty result, and the engine takes no step. -/
def Obligations.ZeroPixelsCompleteAtOnce : Prop :=
  ∀ s : State, s.width = 0#32 ∨ s.height = 0#32 → s.busy = false →
    npix s = 0 ∧ size s = 0
      ∧ ∃ t, performAccess (.regWrite 0x00 4 0x00000004#32) s = .next (t, 0#32)
        ∧ t = { s with
            state := s.seed, x := 0#32, y := 0#32, waddr := 0, length := 0#64, status := t.status }
        ∧ t.flags = (false, true, false, false, 0x00#8) ∧ engineTurn t = .next t

/-- R87: the quad of a noise byte is `0xFF000000 | n * 0x00010101`, and written little-endian its bytes are n, n, n, 255, at
the four addresses and nowhere else. -/
def Obligations.QuadIsGreyAndOpaque : Prop :=
  (∀ n : Byte, pack n = 0xFF000000#32 ||| (BitVec.setWidth 32 n * 0x00010101#32))
    ∧ (∀ (m : Memory) (a : Nat) (n : Byte), quadAt (m.writeLE a (pack n) 4) a n)
    ∧ (∀ (m : Memory) (a x : Nat) (n : Byte), x < a ∨ a + 4 ≤ x → (m.writeLE a (pack n) 4).read? x = m.read? x)

/-- R89: the pixel step draws the next sample, writes its quad at WADDR and no other byte, advances WADDR by 4 and the iterator
in row-major order, completes the command after the last pixel, and writes nothing else (RESULT included). The premises
say that the quad lies in the storage of OBUF and that WADDR does not wrap; the second part says that both hold in every
state that meets the invariant, where the step for pixel `p = Y * W + X` reads `lcg_step^p(SEED)`, writes
`sample(lcg_step^(p+1)(SEED))` and is followed by pixel `p + 1`. -/
def Obligations.PixelStepDrawsAndWritesOneQuad : Prop :=
  (∀ s : State, s.busy = true → s.waddr + 4 ≤ s.cfg.obufCap → s.waddr + 4 < 2 ^ (s.cfg.addrW + 1) →
    ∃ t, engineTurn s = .next t
      ∧ t.state = lcgStep s.state
      ∧ quadAt t.obuf s.waddr (sample (lcgStep s.state))
      ∧ (∀ a, a < s.waddr ∨ s.waddr + 4 ≤ a → t.obuf.read? a = s.obuf.read? a)
      ∧ t.waddr = s.waddr + 4
      ∧ (if s.x.toNat + 1 = s.width.toNat then t.x = 0#32 ∧ t.y = s.y + 1#32 else t.x = s.x + 1#32 ∧ t.y = s.y)
      ∧ (if t.y = s.height
          then t.length = BitVec.ofNat 64 (size s) ∧ t.flags = (false, true, s.err, s.ovr, s.errcode)
          else t.length = s.length ∧ t.status = s.status)
      ∧ t = { s with
          state := t.state, obuf := t.obuf, waddr := t.waddr, x := t.x, y := t.y, length := t.length,
          status := t.status })
    ∧ (∀ s : State, Inv s → s.busy = true →
        s.waddr + 4 ≤ s.cfg.obufCap ∧ s.waddr + 4 < 2 ^ (s.cfg.addrW + 1) ∧ pixIndex s < npix s
          ∧ s.state = lcgIter (pixIndex s) s.seed ∧ s.waddr = 4 * pixIndex s
          ∧ ∃ t, engineTurn s = .next t ∧ quadAt t.obuf (4 * pixIndex s) (sample (lcgIter (pixIndex s + 1) s.seed))
            ∧ pixIndex t = pixIndex s + 1)

/-- R90: the last pixel step reports the result, clears BUSY, sets DONE and leaves X = 0, Y = H and WADDR = size; with no
pixel the acceptance does so with X = Y = WADDR = 0; the engine then has no step. -/
def Obligations.LastPixelCompletesTheGenerate : Prop :=
  (∀ s : State, Inv s → s.busy = true → pixIndex s + 1 = npix s →
      ∃ t, engineTurn s = .next t ∧ t.length.toNat = size s
        ∧ t.flags = (false, true, false, s.ovr, 0x00#8)
        ∧ t.x = 0#32 ∧ t.y = s.height ∧ t.waddr = size s ∧ engineTurn t = .next t)
    ∧ (∀ s : State, npix s = 0 →
        ∃ t, exec .generate s = .next t ∧ t.length.toNat = size s
          ∧ t.flags = (false, true, s.err, s.ovr, s.errcode) ∧ t.x = 0#32 ∧ t.y = 0#32 ∧ t.waddr = 0 ∧ engineTurn t = .next t)

/-- R91, for every schedule: in whatever state that meets the invariant a step ends a running GENERATE other than by reset, the
result is the closed form of WIDTH, HEIGHT and SEED. -/
def Obligations.CompletedResultIsTheClosedForm : Prop :=
  ∀ s t : State, Inv s → s.busy = true → step s = .next t → t.busy = false → (nextTurn s).1 ≠ .reset →
    t.length.toNat = 4 * (s.width.toNat * s.height.toNat)
      ∧ pixelsDone t.obuf s.seed (s.width.toNat * s.height.toNat)
      ∧ t.state = lcgIter (s.width.toNat * s.height.toNat) s.seed

/-- R93, R96, R135, where no turn is scheduled (`schedule = []`, so the engine steps while BUSY = 1: DESIGN CHOICE, log entry 5): a
GENERATE of at least one pixel that passes its size check takes exactly `npix` engine steps: BUSY = 1 after each earlier one,
then the result stands, every byte of `[0, size)` is written, no byte at or above `size` has changed, and
the state is the closed form of R91. -/
def Obligations.GenerateTakesExactlyNpixSteps : Prop :=
  ∀ s t : State, Inv s → s.busy = false → s.schedule = [] → size s ≤ s.cfg.obufCap → npix s ≠ 0 →
    takeCommand 0x00000004#32 s = .next t →
    (∀ j, j < npix s → ∃ u, Host.Core.run Sys2Proof.core j t = .next u ∧ u.busy = true ∧ pixIndex u = j)
      ∧ ∃ u, Host.Core.run Sys2Proof.core (npix s) t = .next u
        ∧ u.busy = false ∧ u.done = true ∧ u.err = false ∧ u.length.toNat = size s
        ∧ pixelsDone u.obuf s.seed (npix s)
        ∧ (∀ a, size s ≤ a → u.obuf.read? a = s.obuf.read? a)
        ∧ u.state = lcgIter (npix s) s.seed

/-- R135, R67 with any schedule: whatever the host does in between, once the engine has had as many turns as pixels remain,
with no reset among the turns, the running GENERATE has completed with its result. -/
def Obligations.RunningGenerateCompletesUnderAnySchedule : Prop :=
  ∀ (s t : State) (k : Nat), Inv s → s.busy = true → k ≤ s.schedule.length →
    Turn.reset ∉ s.schedule.take k → npix s ≤ pixIndex s + (s.schedule.take k).count .engine →
    Host.Core.run Sys2Proof.core k s = .next t →
    ∃ j u, j ≤ k ∧ Host.Core.run Sys2Proof.core j s = .next u ∧ u.busy = false ∧ u.done = true
      ∧ u.length.toNat = size s ∧ pixelsDone u.obuf s.seed (npix s)

/-- R36, R95, where no turn is scheduled (`schedule = []`, so the engine steps while BUSY = 1: DESIGN CHOICE, log entry 5): the
result of a GENERATE of at least one pixel depends only on WIDTH, HEIGHT and SEED: two blocks, whatever they did before, that accept
a GENERATE with the same three end with the same LENGTH, the same bytes below it and the same STATE. -/
def Obligations.GenerateResultIsIsolated : Prop :=
  ∀ s s' t t' u u' : State, Inv s → Inv s' → s.busy = false → s'.busy = false → s.schedule = [] → s'.schedule = [] →
    s'.width = s.width → s'.height = s.height → s'.seed = s.seed → npix s ≠ 0 →
    size s ≤ s.cfg.obufCap → size s ≤ s'.cfg.obufCap →
    takeCommand 0x00000004#32 s = .next t → takeCommand 0x00000004#32 s' = .next t' →
    Host.Core.run Sys2Proof.core (npix s) t = .next u → Host.Core.run Sys2Proof.core (npix s) t' = .next u' →
    u'.length = u.length ∧ u'.state = u.state ∧ u.length.toNat = size s
      ∧ ∀ a, a < size s → u'.obuf.read? a = u.obuf.read? a ∧ (u.obuf.read? a).isSome

/-- R92, R20: no command and no pixel step reads INTENSITY, so two machines that differ only in it go the same way and still
differ only in it. -/
def Obligations.IntensityIsInert : Prop :=
  (∀ (i : Instr) (s t : State) (v : Byte), exec i s = .next t →
      exec i { s with intensity := v } = .next { t with intensity := v })
    ∧ (∀ (s t : State) (v : Byte), engineTurn s = .next t →
        engineTurn { s with intensity := v } = .next { t with intensity := v })

/-! ## The host interface (42_host_interface.md) -/

/-- R97: a parameter write that arrives while BUSY = 0 stores its value (INTENSITY its low byte) and changes nothing else,
STATUS included. -/
def Obligations.ParameterWritesStoreTheirValue : Prop :=
  (∀ (s : State) (v : Word), s.busy = false →
      performAccess (.regWrite 0x08 4 v) s = .next ({ s with width := v }, 0#32)
        ∧ performAccess (.regWrite 0x0C 4 v) s = .next ({ s with height := v }, 0#32)
        ∧ performAccess (.regWrite 0x10 4 v) s = .next ({ s with intensity := v.extractLsb' 0 8 }, 0#32)
        ∧ performAccess (.regWrite 0x14 4 v) s = .next ({ s with seed := v }, 0#32))
    ∧ (∀ s : State, s.busy = false → ∃ t, performAccess (.regWrite 0x10 4 0x1234#32) s = .next (t, 0#32)
        ∧ t.intensity = 0x34#8 ∧ performAccess (.regRead 0x10 4) t = .next (t, 0x00000034#32))

/-- R98: a write to CMD or a parameter register that arrives while BUSY = 1 is dropped: OVR <- 1 and nothing else changes,
whatever the word; OVR then stays 1 until the next take (or a reset). -/
def Obligations.BusyWritesAreDropped : Prop :=
  (∀ (s : State) (off : Nat) (v : Word), s.busy = true →
      off = 0x00 ∨ off = 0x08 ∨ off = 0x0C ∨ off = 0x10 ∨ off = 0x14 →
      ∃ t, performAccess (.regWrite off 4 v) s = .next (t, 0#32) ∧ t = { s with status := t.status }
        ∧ t.flags = (true, s.done, s.err, true, s.errcode))
    ∧ (∀ s t : State, s.ovr = true → step s = .next t →
        t.ovr = true ∨ (takenWord s).isSome ∨ (nextTurn s).1 = .reset)

/-- R100: the value a read of each offset returns; the read changes no state. -/
def Obligations.RegisterReadsReturnTheirRegister : Prop :=
  ∀ s : State,
    performAccess (.regRead 0x00 4) s = .next (s, 0#32)
      ∧ performAccess (.regRead 0x04 4) s
        = .next (s, 0#16 ++ s.errcode ++ 0#4 ++ BitVec.ofBool s.ovr ++ BitVec.ofBool s.err
            ++ BitVec.ofBool s.done ++ BitVec.ofBool s.busy)
      ∧ performAccess (.regRead 0x08 4) s = .next (s, s.width)
      ∧ performAccess (.regRead 0x0C 4) s = .next (s, s.height)
      ∧ performAccess (.regRead 0x10 4) s = .next (s, BitVec.setWidth 32 s.intensity)
      ∧ performAccess (.regRead 0x14 4) s = .next (s, s.seed)
      ∧ performAccess (.regRead 0x18 4) s = .next (s, s.state)
      ∧ performAccess (.regRead 0x1C 4) s = .next (s, s.result)
      ∧ performAccess (.regRead 0x20 4) s = .next (s, s.length.extractLsb' 0 32)
      ∧ performAccess (.regRead 0x24 4) s = .next (s, s.length.extractLsb' 32 32)
      ∧ performAccess (.regRead 0x28 4) s = .next (s, s.x)
      ∧ performAccess (.regRead 0x2C 4) s = .next (s, s.y)

/-- R31: a reserved offset reads 0 and ignores writes, setting no flag, at all times. -/
def Obligations.ReservedOffsetsReadZeroIgnoreWrites : Prop :=
  ∀ (s : State) (off : Nat) (v : Word), 0x30 ≤ off → off ≤ 0xFC → off % 4 = 0 →
    performAccess (.regRead off 4) s = .next (s, 0#32) ∧ performAccess (.regWrite off 4 v) s = .next (s, 0#32)

/-- R101: a write to a read-only register changes no state and sets no flag, BUSY = 1 included. -/
def Obligations.ReadOnlyRegistersIgnoreWrites : Prop :=
  ∀ (s : State) (off : Nat) (v : Word),
    off = 0x04 ∨ off = 0x18 ∨ off = 0x1C ∨ off = 0x20 ∨ off = 0x24 ∨ off = 0x28 ∨ off = 0x2C →
    performAccess (.regWrite off 4 v) s = .next (s, 0#32)

/-- R102: a byte read returns the last value written, zero-extended, and changes nothing; where nothing has been written it
returns a free value, drawn afresh (whatever the counter `draws` holds), and changes no architectural state. -/
def Obligations.ByteReadsReturnTheLastByteWritten : Prop :=
  ∀ (s : State) (a : Nat), a < s.cfg.obufCap →
    (∀ b, s.obuf.read? a = some b →
        performAccess (.obufRead a 1) s = .next (s, BitVec.setWidth 32 b))
      ∧ (s.obuf.read? a = none →
        performAccess (.obufRead a 1) s
          = .next ({ s with draws := s.draws + 1 }, BitVec.setWidth 32 (Config.freeByte s.draws)))

/-- R103: an aligned word read returns the four bytes little-endian: byte k is the last value written at `a + k`, or a free
value of its own where nothing has been written; no architectural state changes; a quad reads as `pack` of its noise byte. -/
def Obligations.WordReadsAreLittleEndian : Prop :=
  ∀ (s : State) (a : Nat), a % 4 = 0 → a + 4 ≤ s.cfg.obufCap →
    ∃ (v : Word) (n : Nat), performAccess (.obufRead a 4) s = .next ({ s with draws := n }, v)
      ∧ (∀ k b, k < 4 → s.obuf.read? (a + k) = some b → byteOf v k = b)
      ∧ (∀ k, k < 4 → s.obuf.read? (a + k) = none →
          byteOf v k = Config.freeByte
            (s.draws + ((List.range k).filter fun j => (s.obuf.read? (a + j)).isNone).length))
      ∧ n = s.draws + ((List.range 4).filter fun j => (s.obuf.read? (a + j)).isNone).length
      ∧ (∀ b, quadAt s.obuf a b → v = 0xFF000000#32 ||| (BitVec.setWidth 32 b * 0x00010101#32))

/-- R104: the accesses outside the interface are refused, each of them and no other: every other access completes. -/
def Obligations.RefusedExactlyOutsideTheInterface : Prop :=
  (∀ (s : State) (off n : Nat) (v : Word),
      ((n ≠ 4 ∨ off % 4 ≠ 0 ∨ 0x100 ≤ off) ↔ ∃ r, performAccess (.regWrite off n v) s = .refused r)
        ∧ ((n ≠ 4 ∨ off % 4 ≠ 0 ∨ 0x100 ≤ off) ↔ ∃ r, performAccess (.regRead off n) s = .refused r))
    ∧ (∀ (s : State) (a : Nat), s.cfg.obufCap ≤ a ↔ ∃ r, performAccess (.obufRead a 1) s = .refused r)
    ∧ (∀ (s : State) (a : Nat),
        (a % 4 ≠ 0 ∨ s.cfg.obufCap < a + 4) ↔ ∃ r, performAccess (.obufRead a 4) s = .refused r)
    ∧ (∀ (s : State) (a n : Nat), n ≠ 1 → n ≠ 4 → ∃ r, performAccess (.obufRead a n) s = .refused r)
    ∧ (∀ (s : State) (a n : Nat) (v : Word), ∃ r, performAccess (.obufWrite a n v) s = .refused r)
    ∧ (∀ (s : State) (a : Access), a.wf s.cfg = true ↔ ∃ r, performAccess a s = .next r)

/-- R65: the host's own control flow goes to its target or on, issues no transaction and changes nothing in the block; `halt`
ends the script; a read gives the value to its temporary. -/
def Obligations.HostStatementsDriveTheInterface : Prop :=
  (∀ (s : State) (t : Temp) (bit : Fin 32) (target : Nat),
      execStmt (.jbs t bit target) s
          = .next { s with hpc := if (s.temps.get t).getLsbD bit then target else s.hpc + 1 }
        ∧ execStmt (.jbc t bit target) s
          = .next { s with hpc := if (s.temps.get t).getLsbD bit then s.hpc + 1 else target })
    ∧ (∀ s : State, execStmt .halt s = .next s)
    ∧ (∀ (s u : State) (off : Nat) (t : Temp) (v : Word), performAccess (.regRead off 4) s = .next (u, v) →
        execStmt (.rd off t) s = .next { s with hpc := s.hpc + 1, temps := s.temps.set v t })
    ∧ (∀ (s u : State) (a : Nat) (t : Temp) (v : Word), performAccess (.obufRead a 1) s.advance = .next (u, v) →
        execStmt (.rdb a t) s = .next { u with temps := u.temps.set v t })
    ∧ (∀ (s u : State) (a : Nat) (t : Temp) (v : Word), performAccess (.obufRead a 4) s.advance = .next (u, v) →
        execStmt (.rdw a t) s = .next { u with temps := u.temps.set v t })
    ∧ (∀ (s u : State) (off : Nat) (v : Word), performAccess (.regWrite off 4 v) s.advance = .next (u, 0#32) →
        execStmt (.wr off v) s = .next u)

/-- R66: the expansions of the pseudo-instructions. -/
def Obligations.PseudoInstructionsExpand : Prop :=
  (∀ i : Instr, assemble [⟨none, .cmd i⟩] = some [.wr 0x00 (encode i)])
    ∧ assemble [⟨none, .wait⟩] = some [.rd 0x04 .t7, .jbs .t7 0 0]
    ∧ (∀ s : Word, assemble [⟨none, .seed s⟩] = some [.wr 0x14 s, .wr 0x00 0x00000001#32])
    ∧ (∀ t : Temp, assemble [⟨none, .nextWord t⟩] = some [.wr 0x00 0x00000002#32, .rd 0x1C t])
    ∧ (∀ t : Temp, assemble [⟨none, .nextByte t⟩] = some [.wr 0x00 0x00000003#32, .rd 0x1C t])
    ∧ (∀ w h i s : Word, assemble [⟨none, .gen w h i s⟩]
        = some [.wr 0x08 w, .wr 0x0C h, .wr 0x10 i, .wr 0x14 s, .wr 0x00 0x00000004#32, .rd 0x04 .t7, .jbs .t7 0 5])

/-! ## Errors (60_exceptions.md) -/

/-- R110: an error completion sets DONE, ERR and ERRCODE and leaves BUSY, OVR and everything else. -/
def Obligations.ErrorCompletionSetsTheRecord : Prop :=
  (∀ (e : CmdError) (s : State), raiseCmdError e s = { s with status := (raiseCmdError e s).status }
      ∧ (raiseCmdError e s).flags = (s.busy, true, true, s.ovr, e.code))
    ∧ CmdError.code .illegalCmd = 0x01#8 ∧ CmdError.code .sizeOverflow = 0x02#8
    ∧ CmdError.code .noCapacity = 0x03#8

/-- R111: after an error completion every piece of state other than STATUS, and LENGTH for a size error, is what it was before
the CMD write: no OBUF byte is written and STATE is not reseeded. -/
def Obligations.ErrorsAreAllOrNothing : Prop :=
  ∀ (w : Word) (s t : State), takeCommand w s = .next t → t.err = true →
    t = { s with length := t.length, status := t.status }
      ∧ (t.errcode = 0x01#8 → t.length = s.length) ∧ (t.errcode ≠ 0x01#8 → t.length = 0#64)

/-- R112: the checks a CMD write meets, in order: BUSY, an illegal word, SIZE_OVERFLOW, NO_CAPACITY; the first that applies
decides the outcome, and with none the command reports no error. -/
def Obligations.FirstCheckDecidesTheOutcome : Prop :=
  ∀ (s : State) (w : Word), ∃ t, performAccess (.regWrite 0x00 4 w) s = .next (t, 0#32)
    ∧ (if s.busy = true then t = dropWrite s ∧ t.errcode = s.errcode ∧ t.err = s.err
      else if w ≠ 1#32 ∧ w ≠ 2#32 ∧ w ≠ 3#32 ∧ w ≠ 4#32 then t.err = true ∧ t.errcode = 0x01#8
      else if w = 4#32 ∧ size s > 2 ^ s.cfg.addrW then t.err = true ∧ t.errcode = 0x02#8
      else if w = 4#32 ∧ size s > s.cfg.obufCap then t.err = true ∧ t.errcode = 0x03#8
      else t.err = false ∧ t.errcode = 0x00#8)

/-- R116: an error's record stays in STATUS until the next taken command or a reset. -/
def Obligations.ErrorRecordStaysUntilTheNextTake : Prop :=
  ∀ s t : State, step s = .next t → takenWord s = none → (nextTurn s).1 ≠ .reset →
    t.err = s.err ∧ t.errcode = s.errcode

/-- R123: STATUS, as it is read, after the transaction of every taken command, and after the completion of a running
GENERATE. -/
def Obligations.StatusAfterEveryTake : Prop :=
  (∀ s : State, s.busy = false → s.status &&& 0xFFFF00F0#32 = 0#32 →
      (∀ i : Instr, i = .init ∨ i = .nextWord ∨ i = .nextByte →
          ∃ t, takeCommand (encode i) s = .next t ∧ t.status = 0x00000002#32)
        ∧ (npix s = 0 → ∃ t, takeCommand 4#32 s = .next t ∧ t.status = 0x00000002#32)
        ∧ (npix s ≠ 0 → size s ≤ 2 ^ s.cfg.addrW → size s ≤ s.cfg.obufCap →
            ∃ t, takeCommand 4#32 s = .next t ∧ t.status = 0x00000001#32)
        ∧ (size s > 2 ^ s.cfg.addrW → ∃ t, takeCommand 4#32 s = .next t ∧ t.status = 0x00000206#32)
        ∧ (size s ≤ 2 ^ s.cfg.addrW → size s > s.cfg.obufCap →
            ∃ t, takeCommand 4#32 s = .next t ∧ t.status = 0x00000306#32)
        ∧ (∀ w, w ≠ 1#32 ∧ w ≠ 2#32 ∧ w ≠ 3#32 ∧ w ≠ 4#32 →
            ∃ t, takeCommand w s = .next t ∧ t.status = 0x00000106#32))
    ∧ (∀ s t : State, Inv s → s.busy = true → engineTurn s = .next t → t.busy = false →
        t.status = if s.ovr then 0x0000000A#32 else 0x00000002#32)

/-! ## Reset (70_reset_and_hazards.md) -/

/-- R124: reset is one transition, at any time: every register becomes 0, so the engine has no step, and OBUF is not written;
at power-up no OBUF byte has a value. -/
def Obligations.ResetClearsEveryRegister : Prop :=
  (∀ s : State, ∃ t, runTurn .reset s = .next t
      ∧ t.state = 0#32 ∧ t.width = 0#32 ∧ t.height = 0#32 ∧ t.intensity = 0#8 ∧ t.seed = 0#32 ∧ t.result = 0#32
      ∧ t.length = 0#64 ∧ t.status = 0#32 ∧ t.x = 0#32 ∧ t.y = 0#32 ∧ t.waddr = 0
      ∧ t.flags = (false, false, false, false, 0x00#8) ∧ engineTurn t = .next t
      ∧ t.obuf = s.obuf)
    ∧ runTurn .reset State.reset = .next State.reset ∧ ∀ a, State.reset.obuf.read? a = none

/-- R125: the state after power-up: every register 0 and no OBUF byte written. -/
def Obligations.PowerUpStateIsAllZero : Prop :=
  State.reset.state = 0#32 ∧ State.reset.width = 0#32 ∧ State.reset.height = 0#32 ∧ State.reset.intensity = 0#8
    ∧ State.reset.seed = 0#32 ∧ State.reset.result = 0#32 ∧ State.reset.length = 0#64 ∧ State.reset.status = 0#32
    ∧ State.reset.x = 0#32 ∧ State.reset.y = 0#32 ∧ State.reset.waddr = 0
    ∧ State.reset.flags = (false, false, false, false, 0x00#8) ∧ ∀ a, State.reset.obuf.read? a = none

/-- R126: a reset while BUSY = 1 abandons the GENERATE: the quads already written stay, every other byte keeps its old value,
and no result is reported. -/
def Obligations.ResetAbandonsARunningGenerate : Prop :=
  ∀ s : State, Inv s → s.busy = true →
    ∃ t, runTurn .reset s = .next t ∧ t.length = 0#64 ∧ t.done = false ∧ t.busy = false
      ∧ (∀ a, t.obuf.read? a = s.obuf.read? a) ∧ pixelsDone t.obuf s.seed (pixIndex s)

/-! ## The whole machine -/

/-- The invariant holds at power-up (R125, R26, R28). -/
def Obligations.InvariantHoldsAtPowerUp : Prop := Inv State.reset

/-- R26, R28: every step, of whichever agent, keeps the invariant. -/
def Obligations.EveryStepKeepsTheInvariant : Prop :=
  ∀ s t : State, Inv s → step s = .next t → Inv t

/-- R96, R104: from a state that meets the invariant no step faults, and a step is refused only for a host access outside the
interface. -/
def Obligations.OnlyProtocolViolationsStopAStep : Prop :=
  ∀ s : State, Inv s →
    (∃ t, step s = .next t)
      ∨ ((∃ r, step s = .refused r) ∧ ∃ a, nextAccess s = some a ∧ a.wf s.cfg = false)

/-- R33, R133: OBUF is written only by the engine's quad writes: any step that changes an OBUF byte is a pixel step, and that
byte lies in the quad at WADDR. -/
def Obligations.OnlyPixelStepsWriteObuf : Prop :=
  ∀ (s t : State) (a : Nat), step s = .next t → t.obuf.read? a ≠ s.obuf.read? a →
    (nextTurn s).1 = .engine ∧ s.busy = true ∧ s.waddr ≤ a ∧ a < s.waddr + 4

/-- R17: STATE is written only by the four commands as they are taken, the pixel step and reset. -/
def Obligations.OnlyCommandsAndPixelStepsWriteState : Prop :=
  ∀ s t : State, step s = .next t → t.state ≠ s.state →
    (takenCommand s).isSome ∨ ((nextTurn s).1 = .engine ∧ s.busy = true) ∨ (nextTurn s).1 = .reset

/-- R18 to R21: WIDTH, HEIGHT, INTENSITY and SEED are written only by a host write to them that arrives while BUSY = 0, with
the value written (and by reset); so they stay as they are while a GENERATE runs. -/
def Obligations.ParametersChangeOnlyByHostWrites : Prop :=
  ∀ s t : State, step s = .next t → (nextTurn s).1 ≠ .reset →
    (t.width ≠ s.width → s.busy = false ∧ nextRegWrite s = some (0x08, t.width))
      ∧ (t.height ≠ s.height → s.busy = false ∧ nextRegWrite s = some (0x0C, t.height))
      ∧ (t.seed ≠ s.seed → s.busy = false ∧ nextRegWrite s = some (0x14, t.seed))
      ∧ (t.intensity ≠ s.intensity →
          s.busy = false ∧ ∃ v, nextRegWrite s = some (0x10, v) ∧ t.intensity = v.extractLsb' 0 8)

/-- R22: RESULT is written only by NEXT_WORD, NEXT_BYTE and reset. -/
def Obligations.OnlyTheDrawCommandsWriteResult : Prop :=
  ∀ s t : State, step s = .next t → t.result ≠ s.result →
    takenCommand s = some .nextWord ∨ takenCommand s = some .nextByte ∨ (nextTurn s).1 = .reset

/-- R23: LENGTH is written only by a taken GENERATE, to 0, by the completion of a GENERATE, to `size`, and by reset, to 0; the
iterator (R27) only by a taken GENERATE, a pixel step and reset. -/
def Obligations.OnlyGenerateWritesLengthAndIterator : Prop :=
  ∀ s t : State, step s = .next t →
    (t.length ≠ s.length →
        (takenCommand s = some .generate ∧ t.length = 0#64)
          ∨ ((nextTurn s).1 = .engine ∧ s.busy = true ∧ t.busy = false ∧ t.length = BitVec.ofNat 64 (size s))
          ∨ ((nextTurn s).1 = .reset ∧ t.length = 0#64))
      ∧ (t.x ≠ s.x ∨ t.y ≠ s.y ∨ t.waddr ≠ s.waddr →
        takenCommand s = some .generate ∨ ((nextTurn s).1 = .engine ∧ s.busy = true) ∨ (nextTurn s).1 = .reset)

/-- R41: a result stays readable until the next GENERATE is taken (or a reset): every other step from a state with BUSY = 0
leaves LENGTH and every OBUF byte. -/
def Obligations.ResultStaysUntilTheNextGenerate : Prop :=
  ∀ s t : State, step s = .next t → s.busy = false → takenCommand s ≠ some .generate → (nextTurn s).1 ≠ .reset →
    t.length = s.length ∧ t.busy = false ∧ ∀ a, t.obuf.read? a = s.obuf.read? a

/-- R122, R48: with BUSY = 0 nothing in the block changes unless the host writes a register or a reset occurs; and while BUSY = 1
no host read changes it either. -/
def Obligations.BlockChangesOnlyByWriteEngineOrReset : Prop :=
  ∀ s t : State, step s = .next t → nextRegWrite s = none → (nextTurn s).1 ≠ .reset →
    (s.busy = true → (nextTurn s).1 ≠ .engine) →
    t = { s with
      draws := t.draws, script := t.script, hpc := t.hpc, temps := t.temps, schedule := t.schedule }

/-- R5, R6: the parameters of the implementation never change, nor does the host's script while it runs. DESIGN CHOICE, log
entries 1 and 4: the model carries the parameters (1) and the loaded script (4) in State. -/
def Obligations.ParametersOfTheBlockAreFixed : Prop :=
  ∀ s t : State, step s = .next t → t.cfg = s.cfg ∧ t.script = s.script
end

