-- ==== Sys2Proof/Laws/State.lean ====
section
/-! SUPPORT. One lemma per field per update of the state, each true by rfl, so that no proof unfolds a record update. -/

namespace Sys2Proof.Machine

variable (s : State)

/-! ### `setState` -/

@[simp] theorem State.setState_state (v : Word) : (s.setState v).state = v := rfl
@[simp] theorem State.setState_width (v : Word) : (s.setState v).width = s.width := rfl
@[simp] theorem State.setState_height (v : Word) : (s.setState v).height = s.height := rfl
@[simp] theorem State.setState_intensity (v : Word) : (s.setState v).intensity = s.intensity := rfl
@[simp] theorem State.setState_seed (v : Word) : (s.setState v).seed = s.seed := rfl
@[simp] theorem State.setState_result (v : Word) : (s.setState v).result = s.result := rfl
@[simp] theorem State.setState_length (v : Word) : (s.setState v).length = s.length := rfl
@[simp] theorem State.setState_status (v : Word) : (s.setState v).status = s.status := rfl
@[simp] theorem State.setState_x (v : Word) : (s.setState v).x = s.x := rfl
@[simp] theorem State.setState_y (v : Word) : (s.setState v).y = s.y := rfl
@[simp] theorem State.setState_waddr (v : Word) : (s.setState v).waddr = s.waddr := rfl
@[simp] theorem State.setState_obuf (v : Word) : (s.setState v).obuf = s.obuf := rfl
@[simp] theorem State.setState_cfg (v : Word) : (s.setState v).cfg = s.cfg := rfl
@[simp] theorem State.setState_draws (v : Word) : (s.setState v).draws = s.draws := rfl
@[simp] theorem State.setState_script (v : Word) : (s.setState v).script = s.script := rfl
@[simp] theorem State.setState_hpc (v : Word) : (s.setState v).hpc = s.hpc := rfl
@[simp] theorem State.setState_temps (v : Word) : (s.setState v).temps = s.temps := rfl
@[simp] theorem State.setState_schedule (v : Word) : (s.setState v).schedule = s.schedule := rfl

/-! ### `setWidth` -/

@[simp] theorem State.setWidth_state (v : Word) : (s.setWidth v).state = s.state := rfl
@[simp] theorem State.setWidth_width (v : Word) : (s.setWidth v).width = v := rfl
@[simp] theorem State.setWidth_height (v : Word) : (s.setWidth v).height = s.height := rfl
@[simp] theorem State.setWidth_intensity (v : Word) : (s.setWidth v).intensity = s.intensity := rfl
@[simp] theorem State.setWidth_seed (v : Word) : (s.setWidth v).seed = s.seed := rfl
@[simp] theorem State.setWidth_result (v : Word) : (s.setWidth v).result = s.result := rfl
@[simp] theorem State.setWidth_length (v : Word) : (s.setWidth v).length = s.length := rfl
@[simp] theorem State.setWidth_status (v : Word) : (s.setWidth v).status = s.status := rfl
@[simp] theorem State.setWidth_x (v : Word) : (s.setWidth v).x = s.x := rfl
@[simp] theorem State.setWidth_y (v : Word) : (s.setWidth v).y = s.y := rfl
@[simp] theorem State.setWidth_waddr (v : Word) : (s.setWidth v).waddr = s.waddr := rfl
@[simp] theorem State.setWidth_obuf (v : Word) : (s.setWidth v).obuf = s.obuf := rfl
@[simp] theorem State.setWidth_cfg (v : Word) : (s.setWidth v).cfg = s.cfg := rfl
@[simp] theorem State.setWidth_draws (v : Word) : (s.setWidth v).draws = s.draws := rfl
@[simp] theorem State.setWidth_script (v : Word) : (s.setWidth v).script = s.script := rfl
@[simp] theorem State.setWidth_hpc (v : Word) : (s.setWidth v).hpc = s.hpc := rfl
@[simp] theorem State.setWidth_temps (v : Word) : (s.setWidth v).temps = s.temps := rfl
@[simp] theorem State.setWidth_schedule (v : Word) : (s.setWidth v).schedule = s.schedule := rfl

/-! ### `setHeight` -/

@[simp] theorem State.setHeight_state (v : Word) : (s.setHeight v).state = s.state := rfl
@[simp] theorem State.setHeight_width (v : Word) : (s.setHeight v).width = s.width := rfl
@[simp] theorem State.setHeight_height (v : Word) : (s.setHeight v).height = v := rfl
@[simp] theorem State.setHeight_intensity (v : Word) : (s.setHeight v).intensity = s.intensity := rfl
@[simp] theorem State.setHeight_seed (v : Word) : (s.setHeight v).seed = s.seed := rfl
@[simp] theorem State.setHeight_result (v : Word) : (s.setHeight v).result = s.result := rfl
@[simp] theorem State.setHeight_length (v : Word) : (s.setHeight v).length = s.length := rfl
@[simp] theorem State.setHeight_status (v : Word) : (s.setHeight v).status = s.status := rfl
@[simp] theorem State.setHeight_x (v : Word) : (s.setHeight v).x = s.x := rfl
@[simp] theorem State.setHeight_y (v : Word) : (s.setHeight v).y = s.y := rfl
@[simp] theorem State.setHeight_waddr (v : Word) : (s.setHeight v).waddr = s.waddr := rfl
@[simp] theorem State.setHeight_obuf (v : Word) : (s.setHeight v).obuf = s.obuf := rfl
@[simp] theorem State.setHeight_cfg (v : Word) : (s.setHeight v).cfg = s.cfg := rfl
@[simp] theorem State.setHeight_draws (v : Word) : (s.setHeight v).draws = s.draws := rfl
@[simp] theorem State.setHeight_script (v : Word) : (s.setHeight v).script = s.script := rfl
@[simp] theorem State.setHeight_hpc (v : Word) : (s.setHeight v).hpc = s.hpc := rfl
@[simp] theorem State.setHeight_temps (v : Word) : (s.setHeight v).temps = s.temps := rfl
@[simp] theorem State.setHeight_schedule (v : Word) : (s.setHeight v).schedule = s.schedule := rfl

/-! ### `setIntensity` -/

@[simp] theorem State.setIntensity_state (v : Byte) : (s.setIntensity v).state = s.state := rfl
@[simp] theorem State.setIntensity_width (v : Byte) : (s.setIntensity v).width = s.width := rfl
@[simp] theorem State.setIntensity_height (v : Byte) : (s.setIntensity v).height = s.height := rfl
@[simp] theorem State.setIntensity_intensity (v : Byte) : (s.setIntensity v).intensity = v := rfl
@[simp] theorem State.setIntensity_seed (v : Byte) : (s.setIntensity v).seed = s.seed := rfl
@[simp] theorem State.setIntensity_result (v : Byte) : (s.setIntensity v).result = s.result := rfl
@[simp] theorem State.setIntensity_length (v : Byte) : (s.setIntensity v).length = s.length := rfl
@[simp] theorem State.setIntensity_status (v : Byte) : (s.setIntensity v).status = s.status := rfl
@[simp] theorem State.setIntensity_x (v : Byte) : (s.setIntensity v).x = s.x := rfl
@[simp] theorem State.setIntensity_y (v : Byte) : (s.setIntensity v).y = s.y := rfl
@[simp] theorem State.setIntensity_waddr (v : Byte) : (s.setIntensity v).waddr = s.waddr := rfl
@[simp] theorem State.setIntensity_obuf (v : Byte) : (s.setIntensity v).obuf = s.obuf := rfl
@[simp] theorem State.setIntensity_cfg (v : Byte) : (s.setIntensity v).cfg = s.cfg := rfl
@[simp] theorem State.setIntensity_draws (v : Byte) : (s.setIntensity v).draws = s.draws := rfl
@[simp] theorem State.setIntensity_script (v : Byte) : (s.setIntensity v).script = s.script := rfl
@[simp] theorem State.setIntensity_hpc (v : Byte) : (s.setIntensity v).hpc = s.hpc := rfl
@[simp] theorem State.setIntensity_temps (v : Byte) : (s.setIntensity v).temps = s.temps := rfl
@[simp] theorem State.setIntensity_schedule (v : Byte) : (s.setIntensity v).schedule = s.schedule := rfl

/-! ### `setSeed` -/

@[simp] theorem State.setSeed_state (v : Word) : (s.setSeed v).state = s.state := rfl
@[simp] theorem State.setSeed_width (v : Word) : (s.setSeed v).width = s.width := rfl
@[simp] theorem State.setSeed_height (v : Word) : (s.setSeed v).height = s.height := rfl
@[simp] theorem State.setSeed_intensity (v : Word) : (s.setSeed v).intensity = s.intensity := rfl
@[simp] theorem State.setSeed_seed (v : Word) : (s.setSeed v).seed = v := rfl
@[simp] theorem State.setSeed_result (v : Word) : (s.setSeed v).result = s.result := rfl
@[simp] theorem State.setSeed_length (v : Word) : (s.setSeed v).length = s.length := rfl
@[simp] theorem State.setSeed_status (v : Word) : (s.setSeed v).status = s.status := rfl
@[simp] theorem State.setSeed_x (v : Word) : (s.setSeed v).x = s.x := rfl
@[simp] theorem State.setSeed_y (v : Word) : (s.setSeed v).y = s.y := rfl
@[simp] theorem State.setSeed_waddr (v : Word) : (s.setSeed v).waddr = s.waddr := rfl
@[simp] theorem State.setSeed_obuf (v : Word) : (s.setSeed v).obuf = s.obuf := rfl
@[simp] theorem State.setSeed_cfg (v : Word) : (s.setSeed v).cfg = s.cfg := rfl
@[simp] theorem State.setSeed_draws (v : Word) : (s.setSeed v).draws = s.draws := rfl
@[simp] theorem State.setSeed_script (v : Word) : (s.setSeed v).script = s.script := rfl
@[simp] theorem State.setSeed_hpc (v : Word) : (s.setSeed v).hpc = s.hpc := rfl
@[simp] theorem State.setSeed_temps (v : Word) : (s.setSeed v).temps = s.temps := rfl
@[simp] theorem State.setSeed_schedule (v : Word) : (s.setSeed v).schedule = s.schedule := rfl

/-! ### `setResult` -/

@[simp] theorem State.setResult_state (v : Word) : (s.setResult v).state = s.state := rfl
@[simp] theorem State.setResult_width (v : Word) : (s.setResult v).width = s.width := rfl
@[simp] theorem State.setResult_height (v : Word) : (s.setResult v).height = s.height := rfl
@[simp] theorem State.setResult_intensity (v : Word) : (s.setResult v).intensity = s.intensity := rfl
@[simp] theorem State.setResult_seed (v : Word) : (s.setResult v).seed = s.seed := rfl
@[simp] theorem State.setResult_result (v : Word) : (s.setResult v).result = v := rfl
@[simp] theorem State.setResult_length (v : Word) : (s.setResult v).length = s.length := rfl
@[simp] theorem State.setResult_status (v : Word) : (s.setResult v).status = s.status := rfl
@[simp] theorem State.setResult_x (v : Word) : (s.setResult v).x = s.x := rfl
@[simp] theorem State.setResult_y (v : Word) : (s.setResult v).y = s.y := rfl
@[simp] theorem State.setResult_waddr (v : Word) : (s.setResult v).waddr = s.waddr := rfl
@[simp] theorem State.setResult_obuf (v : Word) : (s.setResult v).obuf = s.obuf := rfl
@[simp] theorem State.setResult_cfg (v : Word) : (s.setResult v).cfg = s.cfg := rfl
@[simp] theorem State.setResult_draws (v : Word) : (s.setResult v).draws = s.draws := rfl
@[simp] theorem State.setResult_script (v : Word) : (s.setResult v).script = s.script := rfl
@[simp] theorem State.setResult_hpc (v : Word) : (s.setResult v).hpc = s.hpc := rfl
@[simp] theorem State.setResult_temps (v : Word) : (s.setResult v).temps = s.temps := rfl
@[simp] theorem State.setResult_schedule (v : Word) : (s.setResult v).schedule = s.schedule := rfl

/-! ### `setLength` -/

@[simp] theorem State.setLength_state (v : BitVec 64) : (s.setLength v).state = s.state := rfl
@[simp] theorem State.setLength_width (v : BitVec 64) : (s.setLength v).width = s.width := rfl
@[simp] theorem State.setLength_height (v : BitVec 64) : (s.setLength v).height = s.height := rfl
@[simp] theorem State.setLength_intensity (v : BitVec 64) : (s.setLength v).intensity = s.intensity := rfl
@[simp] theorem State.setLength_seed (v : BitVec 64) : (s.setLength v).seed = s.seed := rfl
@[simp] theorem State.setLength_result (v : BitVec 64) : (s.setLength v).result = s.result := rfl
@[simp] theorem State.setLength_length (v : BitVec 64) : (s.setLength v).length = v := rfl
@[simp] theorem State.setLength_status (v : BitVec 64) : (s.setLength v).status = s.status := rfl
@[simp] theorem State.setLength_x (v : BitVec 64) : (s.setLength v).x = s.x := rfl
@[simp] theorem State.setLength_y (v : BitVec 64) : (s.setLength v).y = s.y := rfl
@[simp] theorem State.setLength_waddr (v : BitVec 64) : (s.setLength v).waddr = s.waddr := rfl
@[simp] theorem State.setLength_obuf (v : BitVec 64) : (s.setLength v).obuf = s.obuf := rfl
@[simp] theorem State.setLength_cfg (v : BitVec 64) : (s.setLength v).cfg = s.cfg := rfl
@[simp] theorem State.setLength_draws (v : BitVec 64) : (s.setLength v).draws = s.draws := rfl
@[simp] theorem State.setLength_script (v : BitVec 64) : (s.setLength v).script = s.script := rfl
@[simp] theorem State.setLength_hpc (v : BitVec 64) : (s.setLength v).hpc = s.hpc := rfl
@[simp] theorem State.setLength_temps (v : BitVec 64) : (s.setLength v).temps = s.temps := rfl
@[simp] theorem State.setLength_schedule (v : BitVec 64) : (s.setLength v).schedule = s.schedule := rfl

/-! ### `setStatus` -/

@[simp] theorem State.setStatus_state (v : Word) : (s.setStatus v).state = s.state := rfl
@[simp] theorem State.setStatus_width (v : Word) : (s.setStatus v).width = s.width := rfl
@[simp] theorem State.setStatus_height (v : Word) : (s.setStatus v).height = s.height := rfl
@[simp] theorem State.setStatus_intensity (v : Word) : (s.setStatus v).intensity = s.intensity := rfl
@[simp] theorem State.setStatus_seed (v : Word) : (s.setStatus v).seed = s.seed := rfl
@[simp] theorem State.setStatus_result (v : Word) : (s.setStatus v).result = s.result := rfl
@[simp] theorem State.setStatus_length (v : Word) : (s.setStatus v).length = s.length := rfl
@[simp] theorem State.setStatus_status (v : Word) : (s.setStatus v).status = v := rfl
@[simp] theorem State.setStatus_x (v : Word) : (s.setStatus v).x = s.x := rfl
@[simp] theorem State.setStatus_y (v : Word) : (s.setStatus v).y = s.y := rfl
@[simp] theorem State.setStatus_waddr (v : Word) : (s.setStatus v).waddr = s.waddr := rfl
@[simp] theorem State.setStatus_obuf (v : Word) : (s.setStatus v).obuf = s.obuf := rfl
@[simp] theorem State.setStatus_cfg (v : Word) : (s.setStatus v).cfg = s.cfg := rfl
@[simp] theorem State.setStatus_draws (v : Word) : (s.setStatus v).draws = s.draws := rfl
@[simp] theorem State.setStatus_script (v : Word) : (s.setStatus v).script = s.script := rfl
@[simp] theorem State.setStatus_hpc (v : Word) : (s.setStatus v).hpc = s.hpc := rfl
@[simp] theorem State.setStatus_temps (v : Word) : (s.setStatus v).temps = s.temps := rfl
@[simp] theorem State.setStatus_schedule (v : Word) : (s.setStatus v).schedule = s.schedule := rfl

/-! ### `setIter` -/

@[simp] theorem State.setIter_state (x y : Word) (a : Nat) : (s.setIter x y a).state = s.state := rfl
@[simp] theorem State.setIter_width (x y : Word) (a : Nat) : (s.setIter x y a).width = s.width := rfl
@[simp] theorem State.setIter_height (x y : Word) (a : Nat) : (s.setIter x y a).height = s.height := rfl
@[simp] theorem State.setIter_intensity (x y : Word) (a : Nat) : (s.setIter x y a).intensity = s.intensity := rfl
@[simp] theorem State.setIter_seed (x y : Word) (a : Nat) : (s.setIter x y a).seed = s.seed := rfl
@[simp] theorem State.setIter_result (x y : Word) (a : Nat) : (s.setIter x y a).result = s.result := rfl
@[simp] theorem State.setIter_length (x y : Word) (a : Nat) : (s.setIter x y a).length = s.length := rfl
@[simp] theorem State.setIter_status (x y : Word) (a : Nat) : (s.setIter x y a).status = s.status := rfl
@[simp] theorem State.setIter_x (x y : Word) (a : Nat) : (s.setIter x y a).x = x := rfl
@[simp] theorem State.setIter_y (x y : Word) (a : Nat) : (s.setIter x y a).y = y := rfl
@[simp] theorem State.setIter_waddr (x y : Word) (a : Nat) : (s.setIter x y a).waddr = a % 2 ^ (s.cfg.addrW + 1) := rfl
@[simp] theorem State.setIter_obuf (x y : Word) (a : Nat) : (s.setIter x y a).obuf = s.obuf := rfl
@[simp] theorem State.setIter_cfg (x y : Word) (a : Nat) : (s.setIter x y a).cfg = s.cfg := rfl
@[simp] theorem State.setIter_draws (x y : Word) (a : Nat) : (s.setIter x y a).draws = s.draws := rfl
@[simp] theorem State.setIter_script (x y : Word) (a : Nat) : (s.setIter x y a).script = s.script := rfl
@[simp] theorem State.setIter_hpc (x y : Word) (a : Nat) : (s.setIter x y a).hpc = s.hpc := rfl
@[simp] theorem State.setIter_temps (x y : Word) (a : Nat) : (s.setIter x y a).temps = s.temps := rfl
@[simp] theorem State.setIter_schedule (x y : Word) (a : Nat) : (s.setIter x y a).schedule = s.schedule := rfl

/-! ### `setObuf` -/

@[simp] theorem State.setObuf_state (m : Memory) : (s.setObuf m).state = s.state := rfl
@[simp] theorem State.setObuf_width (m : Memory) : (s.setObuf m).width = s.width := rfl
@[simp] theorem State.setObuf_height (m : Memory) : (s.setObuf m).height = s.height := rfl
@[simp] theorem State.setObuf_intensity (m : Memory) : (s.setObuf m).intensity = s.intensity := rfl
@[simp] theorem State.setObuf_seed (m : Memory) : (s.setObuf m).seed = s.seed := rfl
@[simp] theorem State.setObuf_result (m : Memory) : (s.setObuf m).result = s.result := rfl
@[simp] theorem State.setObuf_length (m : Memory) : (s.setObuf m).length = s.length := rfl
@[simp] theorem State.setObuf_status (m : Memory) : (s.setObuf m).status = s.status := rfl
@[simp] theorem State.setObuf_x (m : Memory) : (s.setObuf m).x = s.x := rfl
@[simp] theorem State.setObuf_y (m : Memory) : (s.setObuf m).y = s.y := rfl
@[simp] theorem State.setObuf_waddr (m : Memory) : (s.setObuf m).waddr = s.waddr := rfl
@[simp] theorem State.setObuf_obuf (m : Memory) : (s.setObuf m).obuf = m := rfl
@[simp] theorem State.setObuf_cfg (m : Memory) : (s.setObuf m).cfg = s.cfg := rfl
@[simp] theorem State.setObuf_draws (m : Memory) : (s.setObuf m).draws = s.draws := rfl
@[simp] theorem State.setObuf_script (m : Memory) : (s.setObuf m).script = s.script := rfl
@[simp] theorem State.setObuf_hpc (m : Memory) : (s.setObuf m).hpc = s.hpc := rfl
@[simp] theorem State.setObuf_temps (m : Memory) : (s.setObuf m).temps = s.temps := rfl
@[simp] theorem State.setObuf_schedule (m : Memory) : (s.setObuf m).schedule = s.schedule := rfl

/-! ### `setDraws` -/

@[simp] theorem State.setDraws_state (n : Nat) : (s.setDraws n).state = s.state := rfl
@[simp] theorem State.setDraws_width (n : Nat) : (s.setDraws n).width = s.width := rfl
@[simp] theorem State.setDraws_height (n : Nat) : (s.setDraws n).height = s.height := rfl
@[simp] theorem State.setDraws_intensity (n : Nat) : (s.setDraws n).intensity = s.intensity := rfl
@[simp] theorem State.setDraws_seed (n : Nat) : (s.setDraws n).seed = s.seed := rfl
@[simp] theorem State.setDraws_result (n : Nat) : (s.setDraws n).result = s.result := rfl
@[simp] theorem State.setDraws_length (n : Nat) : (s.setDraws n).length = s.length := rfl
@[simp] theorem State.setDraws_status (n : Nat) : (s.setDraws n).status = s.status := rfl
@[simp] theorem State.setDraws_x (n : Nat) : (s.setDraws n).x = s.x := rfl
@[simp] theorem State.setDraws_y (n : Nat) : (s.setDraws n).y = s.y := rfl
@[simp] theorem State.setDraws_waddr (n : Nat) : (s.setDraws n).waddr = s.waddr := rfl
@[simp] theorem State.setDraws_obuf (n : Nat) : (s.setDraws n).obuf = s.obuf := rfl
@[simp] theorem State.setDraws_cfg (n : Nat) : (s.setDraws n).cfg = s.cfg := rfl
@[simp] theorem State.setDraws_draws (n : Nat) : (s.setDraws n).draws = n := rfl
@[simp] theorem State.setDraws_script (n : Nat) : (s.setDraws n).script = s.script := rfl
@[simp] theorem State.setDraws_hpc (n : Nat) : (s.setDraws n).hpc = s.hpc := rfl
@[simp] theorem State.setDraws_temps (n : Nat) : (s.setDraws n).temps = s.temps := rfl
@[simp] theorem State.setDraws_schedule (n : Nat) : (s.setDraws n).schedule = s.schedule := rfl

/-! ### `setHpc` -/

@[simp] theorem State.setHpc_state (n : Nat) : (s.setHpc n).state = s.state := rfl
@[simp] theorem State.setHpc_width (n : Nat) : (s.setHpc n).width = s.width := rfl
@[simp] theorem State.setHpc_height (n : Nat) : (s.setHpc n).height = s.height := rfl
@[simp] theorem State.setHpc_intensity (n : Nat) : (s.setHpc n).intensity = s.intensity := rfl
@[simp] theorem State.setHpc_seed (n : Nat) : (s.setHpc n).seed = s.seed := rfl
@[simp] theorem State.setHpc_result (n : Nat) : (s.setHpc n).result = s.result := rfl
@[simp] theorem State.setHpc_length (n : Nat) : (s.setHpc n).length = s.length := rfl
@[simp] theorem State.setHpc_status (n : Nat) : (s.setHpc n).status = s.status := rfl
@[simp] theorem State.setHpc_x (n : Nat) : (s.setHpc n).x = s.x := rfl
@[simp] theorem State.setHpc_y (n : Nat) : (s.setHpc n).y = s.y := rfl
@[simp] theorem State.setHpc_waddr (n : Nat) : (s.setHpc n).waddr = s.waddr := rfl
@[simp] theorem State.setHpc_obuf (n : Nat) : (s.setHpc n).obuf = s.obuf := rfl
@[simp] theorem State.setHpc_cfg (n : Nat) : (s.setHpc n).cfg = s.cfg := rfl
@[simp] theorem State.setHpc_draws (n : Nat) : (s.setHpc n).draws = s.draws := rfl
@[simp] theorem State.setHpc_script (n : Nat) : (s.setHpc n).script = s.script := rfl
@[simp] theorem State.setHpc_hpc (n : Nat) : (s.setHpc n).hpc = n := rfl
@[simp] theorem State.setHpc_temps (n : Nat) : (s.setHpc n).temps = s.temps := rfl
@[simp] theorem State.setHpc_schedule (n : Nat) : (s.setHpc n).schedule = s.schedule := rfl

/-! ### `setTemp` -/

@[simp] theorem State.setTemp_state (t : Temp) (v : Word) : (s.setTemp t v).state = s.state := rfl
@[simp] theorem State.setTemp_width (t : Temp) (v : Word) : (s.setTemp t v).width = s.width := rfl
@[simp] theorem State.setTemp_height (t : Temp) (v : Word) : (s.setTemp t v).height = s.height := rfl
@[simp] theorem State.setTemp_intensity (t : Temp) (v : Word) : (s.setTemp t v).intensity = s.intensity := rfl
@[simp] theorem State.setTemp_seed (t : Temp) (v : Word) : (s.setTemp t v).seed = s.seed := rfl
@[simp] theorem State.setTemp_result (t : Temp) (v : Word) : (s.setTemp t v).result = s.result := rfl
@[simp] theorem State.setTemp_length (t : Temp) (v : Word) : (s.setTemp t v).length = s.length := rfl
@[simp] theorem State.setTemp_status (t : Temp) (v : Word) : (s.setTemp t v).status = s.status := rfl
@[simp] theorem State.setTemp_x (t : Temp) (v : Word) : (s.setTemp t v).x = s.x := rfl
@[simp] theorem State.setTemp_y (t : Temp) (v : Word) : (s.setTemp t v).y = s.y := rfl
@[simp] theorem State.setTemp_waddr (t : Temp) (v : Word) : (s.setTemp t v).waddr = s.waddr := rfl
@[simp] theorem State.setTemp_obuf (t : Temp) (v : Word) : (s.setTemp t v).obuf = s.obuf := rfl
@[simp] theorem State.setTemp_cfg (t : Temp) (v : Word) : (s.setTemp t v).cfg = s.cfg := rfl
@[simp] theorem State.setTemp_draws (t : Temp) (v : Word) : (s.setTemp t v).draws = s.draws := rfl
@[simp] theorem State.setTemp_script (t : Temp) (v : Word) : (s.setTemp t v).script = s.script := rfl
@[simp] theorem State.setTemp_hpc (t : Temp) (v : Word) : (s.setTemp t v).hpc = s.hpc := rfl
@[simp] theorem State.setTemp_temps (t : Temp) (v : Word) : (s.setTemp t v).temps = s.temps.set v t := rfl
@[simp] theorem State.setTemp_schedule (t : Temp) (v : Word) : (s.setTemp t v).schedule = s.schedule := rfl

/-! ### `setSchedule` -/

@[simp] theorem State.setSchedule_state (l : List Turn) : (s.setSchedule l).state = s.state := rfl
@[simp] theorem State.setSchedule_width (l : List Turn) : (s.setSchedule l).width = s.width := rfl
@[simp] theorem State.setSchedule_height (l : List Turn) : (s.setSchedule l).height = s.height := rfl
@[simp] theorem State.setSchedule_intensity (l : List Turn) : (s.setSchedule l).intensity = s.intensity := rfl
@[simp] theorem State.setSchedule_seed (l : List Turn) : (s.setSchedule l).seed = s.seed := rfl
@[simp] theorem State.setSchedule_result (l : List Turn) : (s.setSchedule l).result = s.result := rfl
@[simp] theorem State.setSchedule_length (l : List Turn) : (s.setSchedule l).length = s.length := rfl
@[simp] theorem State.setSchedule_status (l : List Turn) : (s.setSchedule l).status = s.status := rfl
@[simp] theorem State.setSchedule_x (l : List Turn) : (s.setSchedule l).x = s.x := rfl
@[simp] theorem State.setSchedule_y (l : List Turn) : (s.setSchedule l).y = s.y := rfl
@[simp] theorem State.setSchedule_waddr (l : List Turn) : (s.setSchedule l).waddr = s.waddr := rfl
@[simp] theorem State.setSchedule_obuf (l : List Turn) : (s.setSchedule l).obuf = s.obuf := rfl
@[simp] theorem State.setSchedule_cfg (l : List Turn) : (s.setSchedule l).cfg = s.cfg := rfl
@[simp] theorem State.setSchedule_draws (l : List Turn) : (s.setSchedule l).draws = s.draws := rfl
@[simp] theorem State.setSchedule_script (l : List Turn) : (s.setSchedule l).script = s.script := rfl
@[simp] theorem State.setSchedule_hpc (l : List Turn) : (s.setSchedule l).hpc = s.hpc := rfl
@[simp] theorem State.setSchedule_temps (l : List Turn) : (s.setSchedule l).temps = s.temps := rfl
@[simp] theorem State.setSchedule_schedule (l : List Turn) : (s.setSchedule l).schedule = l := rfl

/-! ### `advance` -/

@[simp] theorem State.advance_state : s.advance.state = s.state := rfl
@[simp] theorem State.advance_width : s.advance.width = s.width := rfl
@[simp] theorem State.advance_height : s.advance.height = s.height := rfl
@[simp] theorem State.advance_intensity : s.advance.intensity = s.intensity := rfl
@[simp] theorem State.advance_seed : s.advance.seed = s.seed := rfl
@[simp] theorem State.advance_result : s.advance.result = s.result := rfl
@[simp] theorem State.advance_length : s.advance.length = s.length := rfl
@[simp] theorem State.advance_status : s.advance.status = s.status := rfl
@[simp] theorem State.advance_x : s.advance.x = s.x := rfl
@[simp] theorem State.advance_y : s.advance.y = s.y := rfl
@[simp] theorem State.advance_waddr : s.advance.waddr = s.waddr := rfl
@[simp] theorem State.advance_obuf : s.advance.obuf = s.obuf := rfl
@[simp] theorem State.advance_cfg : s.advance.cfg = s.cfg := rfl
@[simp] theorem State.advance_draws : s.advance.draws = s.draws := rfl
@[simp] theorem State.advance_script : s.advance.script = s.script := rfl
@[simp] theorem State.advance_hpc : s.advance.hpc = s.hpc + 1 := rfl
@[simp] theorem State.advance_temps : s.advance.temps = s.temps := rfl
@[simp] theorem State.advance_schedule : s.advance.schedule = s.schedule := rfl

/-! ### `resetBlock` -/

@[simp] theorem resetBlock_state : (resetBlock s).state = 0#32 := rfl
@[simp] theorem resetBlock_width : (resetBlock s).width = 0#32 := rfl
@[simp] theorem resetBlock_height : (resetBlock s).height = 0#32 := rfl
@[simp] theorem resetBlock_intensity : (resetBlock s).intensity = 0#8 := rfl
@[simp] theorem resetBlock_seed : (resetBlock s).seed = 0#32 := rfl
@[simp] theorem resetBlock_result : (resetBlock s).result = 0#32 := rfl
@[simp] theorem resetBlock_length : (resetBlock s).length = 0#64 := rfl
@[simp] theorem resetBlock_status : (resetBlock s).status = 0#32 := rfl
@[simp] theorem resetBlock_x : (resetBlock s).x = 0#32 := rfl
@[simp] theorem resetBlock_y : (resetBlock s).y = 0#32 := rfl
@[simp] theorem resetBlock_waddr : (resetBlock s).waddr = 0 := rfl
@[simp] theorem resetBlock_obuf : (resetBlock s).obuf = s.obuf := rfl
@[simp] theorem resetBlock_cfg : (resetBlock s).cfg = s.cfg := rfl
@[simp] theorem resetBlock_draws : (resetBlock s).draws = s.draws := rfl
@[simp] theorem resetBlock_script : (resetBlock s).script = s.script := rfl
@[simp] theorem resetBlock_hpc : (resetBlock s).hpc = s.hpc := rfl
@[simp] theorem resetBlock_temps : (resetBlock s).temps = s.temps := rfl
@[simp] theorem resetBlock_schedule : (resetBlock s).schedule = s.schedule := rfl

/-! ### The temporaries -/

@[simp] theorem Temps.get_set_same (ts : Temps) (v : Word) (t : Temp) : (ts.set v t).get t = v := by
  cases t <;> rfl

theorem Temps.get_set_other (ts : Temps) (v : Word) (t u : Temp) (h : u ≠ t) : (ts.set v t).get u = ts.get u := by
  cases t <;> cases u <;> first | rfl | exact absurd rfl h

/-! ### The registers of the window -/

@[simp] theorem Reg.ofOffset_offset (r : Reg) : Reg.ofOffset r.offset = some r := by
  cases r <;> rfl

theorem Reg.ofOffset_eq_some {off : Nat} {r : Reg} (h : Reg.ofOffset off = some r) : off = r.offset := by
  have hr := List.find?_some (p := fun r : Reg => r.offset == off) h
  exact (beq_iff_eq.1 hr).symm

/-- The writable parameter registers change nothing but themselves. -/
theorem writeParam_cases (r : Reg) (v : Word) (s : State) :
    writeParam r v s = s ∨ writeParam r v s = s.setWidth v ∨ writeParam r v s = s.setHeight v
      ∨ writeParam r v s = s.setIntensity (v.extractLsb' 0 8) ∨ writeParam r v s = s.setSeed v := by
  cases r <;> simp [writeParam]

end Sys2Proof.Machine
end

