-- ==== Sys2Proof/Laws/Status.lean ====
section
/-! SUPPORT. The fields of STATUS (10_state.md R24): what each field's write leaves in each field, the reserved bits, and
the value a read returns. -/

namespace Sys2Proof.Machine

/-- Writing a bit sets that bit and no other. -/
theorem getLsbD_writeBit (w : Word) (i : Nat) (hi : i < 32) (b : Bool) (j : Nat) :
    (writeBit w i b).getLsbD j = if j = i then b else w.getLsbD j := by
  unfold writeBit
  by_cases hj : j < 32
  · rcases Nat.lt_trichotomy j i with h | h | h
    · have h1 : ¬ j = i := by omega
      cases b <;> simp [h, hj, h1]
    · subst h
      cases b <;> simp [hj]
    · have h1 : ¬ j = i := by omega
      have h2 : ¬ j < i := by omega
      have h3 : j - i ≠ 0 := by omega
      cases b <;> simp [h2, hj, h1, h3]
  · have h1 : ¬ j = i := by omega
    rw [if_neg h1, BitVec.getLsbD_of_ge _ _ (by omega), BitVec.getLsbD_of_ge _ _ (by omega)]

theorem getLsbD_writeBit_same (w : Word) (i : Nat) (hi : i < 32) (b : Bool) : (writeBit w i b).getLsbD i = b := by
  rw [getLsbD_writeBit w i hi, if_pos rfl]

theorem getLsbD_writeBit_other (w : Word) (i : Nat) (hi : i < 32) (b : Bool) (j : Nat) (h : j ≠ i) :
    (writeBit w i b).getLsbD j = w.getLsbD j := by
  rw [getLsbD_writeBit w i hi, if_neg h]

/-- Writing ERRCODE sets bits [15:8] and no other. -/
theorem getLsbD_withErrcode (w : Word) (c : Byte) (j : Nat) :
    (withErrcode w c).getLsbD j = if 8 ≤ j ∧ j < 16 then c.getLsbD (j - 8) else w.getLsbD j := by
  unfold withErrcode
  by_cases hj : j < 32
  · rw [BitVec.getLsbD_or, BitVec.getLsbD_and, BitVec.getLsbD_shiftLeft, BitVec.getLsbD_setWidth]
    interval_cases j <;> simp
  · have h1 : ¬ (8 ≤ j ∧ j < 16) := by omega
    rw [if_neg h1, BitVec.getLsbD_of_ge _ _ (by omega), BitVec.getLsbD_of_ge _ _ (by omega)]

theorem getLsbD_withErrcode_low (w : Word) (c : Byte) (j : Nat) (h : j < 8) :
    (withErrcode w c).getLsbD j = w.getLsbD j := by
  rw [getLsbD_withErrcode, if_neg (by omega)]

theorem getLsbD_statusErrcode (w : Word) (j : Nat) :
    (statusErrcode w).getLsbD j = (decide (j < 8) && w.getLsbD (8 + j)) := by
  simp [statusErrcode]

section fields
variable (w : Word) (b : Bool) (c : Byte)

@[simp] theorem statusBusy_withBusy : statusBusy (withBusy w b) = b :=
  getLsbD_writeBit_same w 0 (by decide) b
@[simp] theorem statusDone_withBusy : statusDone (withBusy w b) = statusDone w :=
  getLsbD_writeBit_other w 0 (by decide) b 1 (by decide)
@[simp] theorem statusErr_withBusy : statusErr (withBusy w b) = statusErr w :=
  getLsbD_writeBit_other w 0 (by decide) b 2 (by decide)
@[simp] theorem statusOvr_withBusy : statusOvr (withBusy w b) = statusOvr w :=
  getLsbD_writeBit_other w 0 (by decide) b 3 (by decide)
@[simp] theorem statusBusy_withDone : statusBusy (withDone w b) = statusBusy w :=
  getLsbD_writeBit_other w 1 (by decide) b 0 (by decide)
@[simp] theorem statusDone_withDone : statusDone (withDone w b) = b :=
  getLsbD_writeBit_same w 1 (by decide) b
@[simp] theorem statusErr_withDone : statusErr (withDone w b) = statusErr w :=
  getLsbD_writeBit_other w 1 (by decide) b 2 (by decide)
@[simp] theorem statusOvr_withDone : statusOvr (withDone w b) = statusOvr w :=
  getLsbD_writeBit_other w 1 (by decide) b 3 (by decide)
@[simp] theorem statusBusy_withErr : statusBusy (withErr w b) = statusBusy w :=
  getLsbD_writeBit_other w 2 (by decide) b 0 (by decide)
@[simp] theorem statusDone_withErr : statusDone (withErr w b) = statusDone w :=
  getLsbD_writeBit_other w 2 (by decide) b 1 (by decide)
@[simp] theorem statusErr_withErr : statusErr (withErr w b) = b :=
  getLsbD_writeBit_same w 2 (by decide) b
@[simp] theorem statusOvr_withErr : statusOvr (withErr w b) = statusOvr w :=
  getLsbD_writeBit_other w 2 (by decide) b 3 (by decide)
@[simp] theorem statusBusy_withOvr : statusBusy (withOvr w b) = statusBusy w :=
  getLsbD_writeBit_other w 3 (by decide) b 0 (by decide)
@[simp] theorem statusDone_withOvr : statusDone (withOvr w b) = statusDone w :=
  getLsbD_writeBit_other w 3 (by decide) b 1 (by decide)
@[simp] theorem statusErr_withOvr : statusErr (withOvr w b) = statusErr w :=
  getLsbD_writeBit_other w 3 (by decide) b 2 (by decide)
@[simp] theorem statusOvr_withOvr : statusOvr (withOvr w b) = b :=
  getLsbD_writeBit_same w 3 (by decide) b
@[simp] theorem statusBusy_withErrcode : statusBusy (withErrcode w c) = statusBusy w :=
  getLsbD_withErrcode_low w c 0 (by decide)
@[simp] theorem statusDone_withErrcode : statusDone (withErrcode w c) = statusDone w :=
  getLsbD_withErrcode_low w c 1 (by decide)
@[simp] theorem statusErr_withErrcode : statusErr (withErrcode w c) = statusErr w :=
  getLsbD_withErrcode_low w c 2 (by decide)
@[simp] theorem statusOvr_withErrcode : statusOvr (withErrcode w c) = statusOvr w :=
  getLsbD_withErrcode_low w c 3 (by decide)

/-- A bit below 8 is no bit of ERRCODE. -/
theorem statusErrcode_writeBit (i : Nat) (hi : i < 8) : statusErrcode (writeBit w i b) = statusErrcode w := by
  apply BitVec.eq_of_getLsbD_eq
  intro j hj
  have h : ¬ 8 + j = i := by omega
  simp [getLsbD_statusErrcode, getLsbD_writeBit _ _ (Nat.lt_trans hi (by decide : (8 : Nat) < 32)), h]

@[simp] theorem statusErrcode_withBusy : statusErrcode (withBusy w b) = statusErrcode w :=
  statusErrcode_writeBit w b 0 (by decide)
@[simp] theorem statusErrcode_withDone : statusErrcode (withDone w b) = statusErrcode w :=
  statusErrcode_writeBit w b 1 (by decide)
@[simp] theorem statusErrcode_withErr : statusErrcode (withErr w b) = statusErrcode w :=
  statusErrcode_writeBit w b 2 (by decide)
@[simp] theorem statusErrcode_withOvr : statusErrcode (withOvr w b) = statusErrcode w :=
  statusErrcode_writeBit w b 3 (by decide)
@[simp] theorem statusErrcode_withErrcode : statusErrcode (withErrcode w c) = c := by
  apply BitVec.eq_of_getLsbD_eq
  intro j hj
  rw [getLsbD_statusErrcode, getLsbD_withErrcode, if_pos (by omega), Nat.add_sub_cancel_left]
  simp [hj]

end fields

/-- The reserved bits [7:4] and [31:16] of STATUS. -/
theorem getLsbD_reservedMask (j : Nat) :
    (0xFFFF00F0#32).getLsbD j = decide ((4 ≤ j ∧ j < 8) ∨ (16 ≤ j ∧ j < 32)) := by
  by_cases hj : j < 32
  · interval_cases j <;> decide
  · have h : ¬ ((4 ≤ j ∧ j < 8) ∨ (16 ≤ j ∧ j < 32)) := by omega
    rw [BitVec.getLsbD_of_ge _ _ (by omega), decide_eq_false h]

/-- A bit below 4 is no reserved bit. -/
theorem reserved_writeBit (w : Word) (b : Bool) (i : Nat) (hi : i < 4) :
    writeBit w i b &&& 0xFFFF00F0#32 = w &&& 0xFFFF00F0#32 := by
  apply BitVec.eq_of_getLsbD_eq
  intro j hj
  rw [BitVec.getLsbD_and, BitVec.getLsbD_and, getLsbD_reservedMask,
    getLsbD_writeBit _ _ (Nat.lt_trans hi (by decide : (4 : Nat) < 32))]
  by_cases h : j = i
  · have h2 : ¬ ((4 ≤ j ∧ j < 8) ∨ (16 ≤ j ∧ j < 32)) := by omega
    simp [h2]
  · simp [h]

@[simp] theorem reserved_withBusy (w : Word) (b : Bool) :
    withBusy w b &&& 0xFFFF00F0#32 = w &&& 0xFFFF00F0#32 := reserved_writeBit w b 0 (by decide)
@[simp] theorem reserved_withDone (w : Word) (b : Bool) :
    withDone w b &&& 0xFFFF00F0#32 = w &&& 0xFFFF00F0#32 := reserved_writeBit w b 1 (by decide)
@[simp] theorem reserved_withErr (w : Word) (b : Bool) :
    withErr w b &&& 0xFFFF00F0#32 = w &&& 0xFFFF00F0#32 := reserved_writeBit w b 2 (by decide)
@[simp] theorem reserved_withOvr (w : Word) (b : Bool) :
    withOvr w b &&& 0xFFFF00F0#32 = w &&& 0xFFFF00F0#32 := reserved_writeBit w b 3 (by decide)
@[simp] theorem reserved_withErrcode (w : Word) (c : Byte) :
    withErrcode w c &&& 0xFFFF00F0#32 = w &&& 0xFFFF00F0#32 := by
  apply BitVec.eq_of_getLsbD_eq
  intro j hj
  rw [BitVec.getLsbD_and, BitVec.getLsbD_and, getLsbD_reservedMask, getLsbD_withErrcode]
  by_cases h : 8 ≤ j ∧ j < 16
  · have h2 : ¬ ((4 ≤ j ∧ j < 8) ∨ (16 ≤ j ∧ j < 32)) := by omega
    simp [h2]
  · simp [h]

/-- A STATUS word is its fields and its reserved bits. -/
theorem status_ext {v w : Word} (hb : statusBusy v = statusBusy w) (hd : statusDone v = statusDone w)
    (he : statusErr v = statusErr w) (ho : statusOvr v = statusOvr w) (hc : statusErrcode v = statusErrcode w)
    (hr : v &&& 0xFFFF00F0#32 = w &&& 0xFFFF00F0#32) : v = w := by
  apply BitVec.eq_of_getLsbD_eq
  intro j hj
  by_cases h4 : j < 4
  · interval_cases j
    · exact hb
    · exact hd
    · exact he
    · exact ho
  by_cases h8 : 8 ≤ j ∧ j < 16
  · have := congrArg (fun c => c.getLsbD (j - 8)) hc
    simp only [getLsbD_statusErrcode] at this
    have h : j - 8 < 8 := by omega
    have h2 : 8 + (j - 8) = j := by omega
    simpa [h, h2] using this
  · have := congrArg (fun c => c.getLsbD j) hr
    simp only [BitVec.getLsbD_and, getLsbD_reservedMask] at this
    have h : (4 ≤ j ∧ j < 8) ∨ (16 ≤ j ∧ j < 32) := by omega
    simpa [h] using this

/-- A read of STATUS keeps the fields and reads the reserved bits as 0. -/
theorem statusRead_eq (w : Word) : statusRead w = w &&& 0x0000FF0F#32 := by
  apply BitVec.eq_of_getLsbD_eq
  intro j hj
  unfold statusRead statusErrcode statusOvr statusErr statusDone statusBusy
  simp only [BitVec.getLsbD_append, BitVec.getLsbD_and, BitVec.getLsbD_extractLsb', BitVec.getLsbD_ofBool]
  interval_cases j <;> simp

end Sys2Proof.Machine
end

