-- ==== Sys2Proof/Laws/Memory.lean ====
section
/-! SUPPORT. OBUF as a memory: a read after a write, the canonical form, the bytes a little-endian write stores
(20_memory.md R43), and what a read returns and changes (42_host_interface.md R102, R103). -/

namespace Sys2Proof.Machine

@[simp] theorem Memory.read?_nil (a : Nat) : Memory.read? [] a = none := rfl

theorem Memory.read?_cons (c : Host.Cell) (m : Memory) (a : Nat) :
    Memory.read? (c :: m) a = if a = c.1 then some c.2 else Memory.read? m a := rfl

/-- An address below every entry reads as never written. -/
theorem Memory.read?_below {m : Memory} {a : Nat} (h : ∀ c ∈ m, a < c.1) : m.read? a = none := by
  induction m with
  | nil => rfl
  | cons c m ih =>
    have hc : a < c.1 := h c (by simp)
    have : ¬ a = c.1 := by omega
    rw [read?_cons, if_neg this]
    exact ih fun d hd => h d (by simp [hd])

/-- Reading back a written byte, and every other byte unchanged. -/
theorem Memory.read?_write (m : Memory) (a : Nat) (b : Byte) (x : Nat) :
    (m.write a b).read? x = if x = a then some b else m.read? x := by
  induction m with
  | nil => simp [Memory.write, Memory.read?_cons]
  | cons c m ih =>
    unfold Memory.write
    split
    · rw [read?_cons]
    · split
      · rename_i h1 h2
        rw [read?_cons, read?_cons, ← h2]
        split <;> rfl
      · rename_i h1 h2
        rw [read?_cons, ih, read?_cons]
        by_cases hx : x = c.1
        · have : ¬ x = a := by omega
          simp [hx, Ne.symm h2]
        · simp [hx]

/-- Who is in the memory after a write. -/
theorem Memory.mem_write {m : Memory} {a : Nat} {b : Byte} {c : Host.Cell} (h : c ∈ m.write a b) :
    c = (a, b) ∨ c ∈ m := by
  induction m with
  | nil => simpa [Memory.write] using h
  | cons d m ih =>
    unfold Memory.write at h
    split at h
    · simpa using h
    · split at h
      · rcases List.mem_cons.1 h with h | h
        · exact .inl h
        · exact .inr (List.mem_cons_of_mem _ h)
      · rcases List.mem_cons.1 h with h | h
        · exact .inr (h ▸ List.mem_cons_self)
        · exact (ih h).imp id (List.mem_cons_of_mem _)

/-- A write keeps the canonical form. -/
theorem Memory.write_wf {m : Memory} (h : m.wf) (a : Nat) (b : Byte) : (m.write a b).wf := by
  induction m with
  | nil => simp [Memory.write]
  | cons c m ih =>
    obtain ⟨hc, hm⟩ := List.pairwise_cons.1 h
    unfold Memory.write
    split
    · rename_i h1
      refine List.pairwise_cons.2 ⟨fun d hd => ?_, h⟩
      rcases List.mem_cons.1 hd with hd | hd
      · exact hd ▸ h1
      · exact Nat.lt_trans h1 (hc d hd)
    · split
      · rename_i h1 h2
        exact List.pairwise_cons.2 ⟨fun d hd => h2 ▸ hc d hd, hm⟩
      · rename_i h1 h2
        refine List.pairwise_cons.2 ⟨fun d hd => ?_, ih hm⟩
        rcases Memory.mem_write hd with hd | hd
        · subst hd
          show c.1 < a
          omega
        · exact hc d hd

/-- A little-endian write stores byte `k` at `a + k` and changes no byte outside `a .. a + n - 1` (R11, R43). -/
theorem Memory.read?_writeLE (m : Memory) (a : Nat) (v : Word) (n x : Nat) :
    (m.writeLE a v n).read? x = if a ≤ x ∧ x < a + n then some (byteOf v (x - a)) else m.read? x := by
  induction n with
  | zero =>
    have : ¬ (a ≤ x ∧ x < a + 0) := by omega
    rw [if_neg this]; rfl
  | succ n ih =>
    show ((Memory.writeLE m a v n).write (a + n) (byteOf v n)).read? x = _
    rw [read?_write, ih]
    by_cases h1 : x = a + n
    · have h2 : a ≤ x ∧ x < a + (n + 1) := by omega
      rw [if_pos h1, if_pos h2]
      congr 2
      omega
    · rw [if_neg h1]
      by_cases h2 : a ≤ x ∧ x < a + n
      · have h3 : a ≤ x ∧ x < a + (n + 1) := by omega
        rw [if_pos h2, if_pos h3]
      · have h3 : ¬ (a ≤ x ∧ x < a + (n + 1)) := by omega
        rw [if_neg h2, if_neg h3]

/-- A little-endian write keeps the canonical form. -/
theorem Memory.writeLE_wf {m : Memory} (h : m.wf) (a : Nat) (v : Word) (n : Nat) : (m.writeLE a v n).wf := by
  induction n with
  | zero => exact h
  | succ n ih => exact Memory.write_wf ih _ _

/-- A little-endian write adds no address outside `a .. a + n - 1`. -/
theorem Memory.mem_writeLE {m : Memory} {a : Nat} {v : Word} {n : Nat} {c : Host.Cell} (h : c ∈ m.writeLE a v n) :
    c ∈ m ∨ (a ≤ c.1 ∧ c.1 < a + n) := by
  induction n with
  | zero => exact .inl h
  | succ n ih =>
    rcases Memory.mem_write h with h | h
    · subst h
      right
      show a ≤ a + n ∧ a + n < a + (n + 1)
      omega
    · rcases ih h with h | h
      · exact .inl h
      · right; omega

/-- What reading a byte can do: return a written byte and change nothing, or draw a free value. -/
theorem readByte_cases (a : Nat) (s : State) :
    (∃ b, s.obuf.read? a = some b ∧ readByte a s = (b, s)) ∨
    (s.obuf.read? a = none ∧ readByte a s = (Config.freeByte s.draws, s.setDraws (s.draws + 1))) := by
  unfold readByte
  cases h : s.obuf.read? a with
  | some b => exact .inl ⟨b, rfl, rfl⟩
  | none => exact .inr ⟨rfl, rfl⟩

/-- A read changes nothing but the counter of free values (20_memory.md R48). -/
theorem readLE_state (a n : Nat) (s : State) : ∃ k, (readLE a n s).2 = s.setDraws k := by
  induction n with
  | zero => exact ⟨s.draws, rfl⟩
  | succ n ih =>
    obtain ⟨k, hk⟩ := ih
    rcases readByte_cases (a + n) (readLE a n s).2 with ⟨b, -, h⟩ | ⟨-, h⟩
    · refine ⟨k, ?_⟩
      show (readByte (a + n) (readLE a n s).2).2 = _
      rw [h, hk]
    · refine ⟨(readLE a n s).2.draws + 1, ?_⟩
      show (readByte (a + n) (readLE a n s).2).2 = _
      rw [h, hk]; rfl

end Sys2Proof.Machine
end

