-- ==== Sys2Proof/Laws/Lcg.lean ====
section
/-! SUPPORT. The two pure functions of the LCG (40_lcg_engine.md R70, R71) as arithmetic, their iteration (00_scope.md R14),
and the three commands. -/

namespace Sys2Proof.Machine

theorem lcgA_toNat : lcgA.toNat = 1664525 := by decide

theorem lcgC_toNat : lcgC.toNat = 1013904223 := by decide

theorem lcgStep_toNat (s : Word) : (lcgStep s).toNat = (s.toNat * 1664525 + 1013904223) % 2 ^ 32 := by
  rw [lcgStep, BitVec.add_comm, BitVec.mul_comm, BitVec.toNat_add, BitVec.toNat_mul, lcgA_toNat, lcgC_toNat,
    Nat.mod_add_mod]

theorem sample_toNat (s : Word) : (sample s).toNat = s.toNat / 2 ^ 24 := by
  have h := s.isLt
  simp only [sample, BitVec.extractLsb'_toNat, Nat.shiftRight_eq_div_pow]
  omega

@[simp] theorem lcgIter_zero (s : Word) : lcgIter 0 s = s := rfl

theorem lcgIter_succ (k : Nat) (s : Word) : lcgIter (k + 1) s = lcgStep (lcgIter k s) := rfl

/-- Iterating past the first step. -/
theorem lcgIter_add (j k : Nat) (s : Word) : lcgIter (j + k) s = lcgIter j (lcgIter k s) := by
  induction j with
  | zero => rw [Nat.zero_add]; rfl
  | succ j ih => rw [Nat.succ_add, lcgIter_succ, lcgIter_succ, ih]

/-- The flags after a completion. -/
@[simp] theorem flags_completeOk (s : State) :
    (completeOk s).flags = (s.busy, true, s.err, s.ovr, s.errcode) := by
  simp [completeOk, State.flags, State.busy, State.done, State.err, State.ovr, State.errcode]

/-- The flags after the take has cleared the record. -/
@[simp] theorem flags_clearRecord (s : State) : (clearRecord s).flags = (s.busy, false, false, false, 0x00#8) := by
  simp [clearRecord, State.flags, State.busy, State.done, State.err, State.ovr, State.errcode]

/-- The flags after an error completion. -/
@[simp] theorem flags_raiseCmdError (e : CmdError) (s : State) :
    (raiseCmdError e s).flags = (s.busy, true, true, s.ovr, e.code) := by
  simp [raiseCmdError, State.flags, State.busy, State.done, State.err, State.ovr, State.errcode]

/-- The flags after a dropped write. -/
@[simp] theorem flags_dropWrite (s : State) : (dropWrite s).flags = (s.busy, s.done, s.err, true, s.errcode) := by
  simp [dropWrite, State.flags, State.busy, State.done, State.err, State.ovr, State.errcode]

/-- INIT, NEXT_WORD and NEXT_BYTE always answer, and change at most STATE, RESULT and STATUS. -/
theorem execLcg_next {i : Instr} (hi : i = .init ∨ i = .nextWord ∨ i = .nextByte) (s : State) :
    ∃ v r, exec i s = .next (completeOk ((s.setState v).setResult r))
      ∧ (i = .init → v = s.seed ∧ r = s.result) ∧ (i ≠ .init → v = lcgStep s.state)
      ∧ (i = .nextWord → r = lcgStep s.state)
      ∧ (i = .nextByte → r = BitVec.setWidth 32 (sample (lcgStep s.state))) := by
  rcases hi with rfl | rfl | rfl
  · exact ⟨s.seed, s.result, rfl, fun _ => ⟨rfl, rfl⟩, fun h => absurd rfl h, nofun, nofun⟩
  · exact ⟨lcgStep s.state, lcgStep s.state, rfl, nofun, fun _ => rfl, fun _ => rfl, nofun⟩
  · exact ⟨lcgStep s.state, _, rfl, nofun, fun _ => rfl, nofun, fun _ => rfl⟩

end Sys2Proof.Machine
end

