-- ==== Sys2Proof/Laws/BufferWriter.lean ====
section
/-! SUPPORT. The buffer writer (41_buffer_writer.md): the quad's bytes, the three outcomes of GENERATE, and what a pixel step
does, each said once. -/

namespace Sys2Proof.Machine

/-- The bytes of a quad (R87). -/
theorem byteOf_pack (n : Byte) :
    byteOf (pack n) 0 = n ∧ byteOf (pack n) 1 = n ∧ byteOf (pack n) 2 = n ∧ byteOf (pack n) 3 = 0xFF#8 := by
  refine ⟨?_, ?_, ?_, ?_⟩ <;>
  · apply BitVec.eq_of_getLsbD_eq
    intro j hj
    simp only [byteOf, pack, BitVec.getLsbD_extractLsb', BitVec.getLsbD_append]
    interval_cases j <;> simp

/-- A quad written at `a` stands at `a` (R87). -/
theorem quadAt_writeLE (m : Memory) (a : Nat) (n : Byte) : quadAt (m.writeLE a (pack n) 4) a n := by
  obtain ⟨h0, h1, h2, h3⟩ := byteOf_pack n
  refine ⟨?_, ?_, ?_, ?_⟩ <;> rw [Memory.read?_writeLE, if_pos (by omega)]
  · rw [Nat.sub_self, h0]
  · rw [Nat.add_sub_cancel_left, h1]
  · rw [Nat.add_sub_cancel_left, h2]
  · rw [Nat.add_sub_cancel_left, h3]

/-- A quad written at `a` changes no other byte. -/
theorem read?_writeQuad_other (m : Memory) (a x : Nat) (v : Word) (h : x < a ∨ a + 4 ≤ x) :
    (m.writeLE a v 4).read? x = m.read? x := by
  rw [Memory.read?_writeLE, if_neg (by omega)]

/-- A quad that stands elsewhere still stands after a quad is written. -/
theorem quadAt_writeLE_other {m : Memory} {a b : Nat} {n : Byte} (v : Word) (hq : quadAt m b n)
    (h : b + 4 ≤ a ∨ a + 4 ≤ b) : quadAt (m.writeLE a v 4) b n := by
  obtain ⟨h0, h1, h2, h3⟩ := hq
  refine ⟨?_, ?_, ?_, ?_⟩ <;> rw [read?_writeQuad_other _ _ _ _ (by omega)] <;> assumption

/-- The flags after a completion of GENERATE (R90). -/
@[simp] theorem flags_completeGenerate (s : State) :
    (completeGenerate s).flags = (false, true, s.err, s.ovr, s.errcode) := by
  simp [completeGenerate, State.flags, State.busy, State.done, State.err, State.ovr, State.errcode]

/-- What a completion of GENERATE leaves: everything but LENGTH and STATUS. -/
theorem completeGenerate_eq (s : State) :
    completeGenerate s = (s.setLength (BitVec.ofNat 64 (size s))).setStatus (withDone (withBusy s.status false) true) :=
  rfl

/-- The three outcomes of GENERATE (R84, R86). -/
theorem execGenerate_cases (s : State) :
    (size s > 2 ^ s.cfg.addrW ∧ exec .generate s = .next (raiseCmdError .sizeOverflow (s.setLength 0#64))) ∨
    (size s ≤ 2 ^ s.cfg.addrW ∧ size s > s.cfg.obufCap ∧
      exec .generate s = .next (raiseCmdError .noCapacity (s.setLength 0#64))) ∨
    (size s ≤ 2 ^ s.cfg.addrW ∧ size s ≤ s.cfg.obufCap ∧ exec .generate s = .next (acceptGenerate s)) := by
  show _ ∨ (_ ∧ _ ∧ execGenerate s = _) ∨ (_ ∧ _ ∧ execGenerate s = _)
  by_cases h1 : size s > 2 ^ s.cfg.addrW
  · exact .inl ⟨h1, if_pos h1⟩
  · by_cases h2 : size s > s.cfg.obufCap
    · exact .inr (.inl ⟨by omega, h2, (if_neg h1).trans (if_pos h2)⟩)
    · exact .inr (.inr ⟨by omega, by omega, (if_neg h1).trans (if_neg h2)⟩)

/-- What the acceptance leaves (R86): the named fields and STATUS. -/
theorem acceptGenerate_eq (s : State) :
    acceptGenerate s = ((((s.setState s.seed).setIter 0#32 0#32 0).setLength 0#64).setStatus
      (if npix s = 0 then withDone (withBusy s.status false) true else withBusy s.status true)) := by
  unfold acceptGenerate
  by_cases h : npix s = 0
  · have h0 : s.width.toNat * s.height.toNat = 0 := h
    simp [completeGenerate, State.setIter, State.setState, State.setLength, State.setStatus, size, npix, h0]
  · simp [h, State.setIter, State.setState, State.setLength, State.setStatus]

/-- GENERATE always answers. -/
theorem execGenerate_next (s : State) : ∃ t, exec .generate s = .next t := by
  rcases execGenerate_cases s with ⟨-, h⟩ | ⟨-, -, h⟩ | ⟨-, -, h⟩ <;> exact ⟨_, h⟩

/-- Every command answers. -/
theorem exec_next (i : Instr) (s : State) : ∃ t, exec i s = .next t := by
  cases i
  · exact ⟨_, rfl⟩
  · exact ⟨_, rfl⟩
  · exact ⟨_, rfl⟩
  · exact execGenerate_next s

/-- Advancing the iterator writes the iterator alone (R89). -/
theorem advanceIter_eq (s : State) :
    advanceIter s = s.setIter (if s.x.toNat + 1 = s.width.toNat then 0#32 else s.x + 1#32)
      (if s.x.toNat + 1 = s.width.toNat then s.y + 1#32 else s.y) (s.waddr + 4) := by
  unfold advanceIter
  split <;> rfl

/-- Completing the command if it was the last pixel writes LENGTH and STATUS alone (R90). -/
theorem completeIfLast_eq (s : State) :
    completeIfLast s = (s.setLength (if s.y = s.height then BitVec.ofNat 64 (size s) else s.length)).setStatus
      (if s.y = s.height then withDone (withBusy s.status false) true else s.status) := by
  unfold completeIfLast
  split <;> rfl

@[simp] theorem writeQuad_x (s : State) : (writeQuad s).x = s.x := rfl
@[simp] theorem writeQuad_y (s : State) : (writeQuad s).y = s.y := rfl
@[simp] theorem writeQuad_width (s : State) : (writeQuad s).width = s.width := rfl
@[simp] theorem writeQuad_height (s : State) : (writeQuad s).height = s.height := rfl
@[simp] theorem writeQuad_waddr (s : State) : (writeQuad s).waddr = s.waddr := rfl
@[simp] theorem writeQuad_cfg (s : State) : (writeQuad s).cfg = s.cfg := rfl
@[simp] theorem writeQuad_length (s : State) : (writeQuad s).length = s.length := rfl
@[simp] theorem writeQuad_status (s : State) : (writeQuad s).status = s.status := rfl

/-- The X a pixel step leaves (R89). -/
def nextX (s : State) : Word := if s.x.toNat + 1 = s.width.toNat then 0#32 else s.x + 1#32

/-- The Y a pixel step leaves (R89). -/
def nextY (s : State) : Word := if s.x.toNat + 1 = s.width.toNat then s.y + 1#32 else s.y

/-- The OBUF a pixel step leaves (R89). -/
def nextObuf (s : State) : Memory := s.obuf.writeLE s.waddr (pack (sample (lcgStep s.state))) 4

/-- Everything a pixel step leaves (R89, R90): STATE, OBUF and the iterator, and, after the last pixel, LENGTH and STATUS. -/
theorem pixelStep_eq (s : State) :
    completeIfLast (advanceIter (writeQuad s)) =
      (((((s.setState (lcgStep s.state)).setObuf (nextObuf s)).setIter (nextX s) (nextY s) (s.waddr + 4)).setLength
        (if nextY s = s.height then BitVec.ofNat 64 (size s) else s.length)).setStatus
        (if nextY s = s.height then withDone (withBusy s.status false) true else s.status)) := by
  rw [completeIfLast_eq, advanceIter_eq]
  rfl

/-- The pixel step answers exactly when its quad lies in the storage of OBUF. -/
theorem pixelStep_of_fits {s : State} (h : s.waddr + 4 ≤ s.cfg.obufCap) :
    pixelStep s = .next (completeIfLast (advanceIter (writeQuad s))) := if_pos h

/-- What a pixel step that answers does (R89, R90). -/
theorem pixelStep_cases {s t : State} (h : pixelStep s = .next t) :
    s.waddr + 4 ≤ s.cfg.obufCap ∧
      t = (((((s.setState (lcgStep s.state)).setObuf (nextObuf s)).setIter (nextX s) (nextY s)
        (s.waddr + 4)).setLength (if nextY s = s.height then BitVec.ofNat 64 (size s) else s.length)).setStatus
        (if nextY s = s.height then withDone (withBusy s.status false) true else s.status)) := by
  unfold pixelStep at h
  split at h
  · rename_i hw
    rw [pixelStep_eq] at h
    injection h with h
    exact ⟨hw, h.symm⟩
  · cases h

end Sys2Proof.Machine
end

