-- ==== Sys2Proof/Laws/HostPort.lean ====
section
/-! SUPPORT. The host interface (42_host_interface.md): the outcomes of an access, said once, so that no later proof unfolds
the register window or the script. -/

namespace Sys2Proof.Machine

variable {s t u : State}

theorem takeCommand_ok {w : Word} {i : Instr} (h : decode w = .ok i) (s : State) :
    takeCommand w s = exec i (clearRecord s) := by
  unfold takeCommand; rw [h]

theorem takeCommand_error {w : Word} {e : Illegal} (h : decode w = .error e) (s : State) :
    takeCommand w s = .next (raiseCmdError .illegalCmd (clearRecord s)) := by
  unfold takeCommand; rw [h]

/-- A take always answers. -/
theorem takeCommand_next (w : Word) (s : State) : ∃ t, takeCommand w s = .next t := by
  cases h : decode w with
  | ok i => rw [takeCommand_ok h]; exact exec_next i _
  | error e => exact ⟨_, takeCommand_error h s⟩

/-- What a take does (R99): the illegal word reported, a command of the LCG engine, or one of the three outcomes of
GENERATE. -/
theorem takeCommand_cases {w : Word} (h : takeCommand w s = .next t) :
    ((∃ e, decode w = .error e) ∧ t = raiseCmdError .illegalCmd (clearRecord s)) ∨
    (∃ i v r, decode w = .ok i ∧ (i = .init ∨ i = .nextWord ∨ i = .nextByte) ∧ (i = .init → r = s.result)
      ∧ t = completeOk (((clearRecord s).setState v).setResult r)) ∨
    (decode w = .ok .generate ∧ size s > 2 ^ s.cfg.addrW
      ∧ t = raiseCmdError .sizeOverflow ((clearRecord s).setLength 0#64)) ∨
    (decode w = .ok .generate ∧ size s ≤ 2 ^ s.cfg.addrW ∧ size s > s.cfg.obufCap
      ∧ t = raiseCmdError .noCapacity ((clearRecord s).setLength 0#64)) ∨
    (decode w = .ok .generate ∧ size s ≤ 2 ^ s.cfg.addrW ∧ size s ≤ s.cfg.obufCap
      ∧ t = acceptGenerate (clearRecord s)) := by
  cases hd : decode w with
  | error e =>
    rw [takeCommand_error hd] at h
    injection h with h
    exact .inl ⟨⟨e, rfl⟩, h.symm⟩
  | ok i =>
    rw [takeCommand_ok hd] at h
    by_cases hi : i = .init ∨ i = .nextWord ∨ i = .nextByte
    · obtain ⟨v, r, he, hr, -⟩ := execLcg_next hi (clearRecord s)
      rw [he] at h
      injection h with h
      exact .inr (.inl ⟨i, v, r, rfl, hi, fun e => (hr e).2, h.symm⟩)
    · have hg : i = .generate := by
        cases i <;> first | rfl | exact absurd (by simp) hi
      subst hg
      rcases execGenerate_cases (clearRecord s) with ⟨h1, he⟩ | ⟨h1, h2, he⟩ | ⟨h1, h2, he⟩ <;>
        rw [he] at h <;> injection h with h
      · exact .inr (.inr (.inl ⟨rfl, h1, h.symm⟩))
      · exact .inr (.inr (.inr (.inl ⟨rfl, h1, h2, h.symm⟩)))
      · exact .inr (.inr (.inr (.inr ⟨rfl, h1, h2, h.symm⟩)))

/-- A write to a parameter register is dropped while BUSY = 1 and stored otherwise (R97, R98). -/
theorem hostWrite_param (r : Reg) (hr : r.isParam = true) (v : Word) (s : State) :
    hostWrite r.offset v s = .next (if s.busy then dropWrite s else writeParam r v s) := by
  cases r <;> first | rfl | cases hr

/-- A write to CMD is dropped while BUSY = 1 and taken otherwise (R98, R99). -/
theorem hostWrite_cmd (v : Word) (s : State) :
    hostWrite 0x00 v s = if s.busy then .next (dropWrite s) else takeCommand v s := rfl

/-- What a register write does (R97 to R101): it is ignored, dropped, stored in a parameter register, or taken as a command. -/
theorem hostWrite_cases (off : Nat) (v : Word) (s : State) :
    hostWrite off v s = .next s ∨
    (s.busy = true ∧ hostWrite off v s = .next (dropWrite s)) ∨
    (s.busy = false ∧ (∃ r : Reg, off = r.offset ∧ r.isParam = true ∧ hostWrite off v s = .next (writeParam r v s))) ∨
    (s.busy = false ∧ off = Reg.cmd.offset ∧ hostWrite off v s = takeCommand v s) := by
  cases hr : Reg.ofOffset off with
  | none => left; simp [hostWrite, hr]
  | some r =>
    have ho := Reg.ofOffset_eq_some hr
    by_cases hc : r = .cmd
    · subst hc
      cases hb : s.busy with
      | true => exact .inr (.inl ⟨rfl, by simp [hostWrite, hr, hb]⟩)
      | false => exact .inr (.inr (.inr ⟨rfl, ho, by simp [hostWrite, hr, hb]⟩))
    · have he : hostWrite off v s =
          if r.isParam then .next (if s.busy then dropWrite s else writeParam r v s) else .next s := by
        unfold hostWrite
        rw [hr]
        cases r <;> first | rfl | exact absurd rfl hc
      cases hp : r.isParam with
      | false => left; rw [he, hp]; rfl
      | true =>
        cases hb : s.busy with
        | true => exact .inr (.inl ⟨rfl, by rw [he, hp, hb]; rfl⟩)
        | false => exact .inr (.inr (.inl ⟨rfl, r, ho, hp, by rw [he, hp, hb]; rfl⟩))

/-- A register write always answers. -/
theorem hostWrite_next (off : Nat) (v : Word) (s : State) : ∃ t, hostWrite off v s = .next t := by
  rcases hostWrite_cases off v s with h | ⟨-, h⟩ | ⟨-, r, -, -, h⟩ | ⟨-, -, h⟩
  · exact ⟨_, h⟩
  · exact ⟨_, h⟩
  · exact ⟨_, h⟩
  · obtain ⟨t, ht⟩ := takeCommand_next v s
    exact ⟨t, h.trans ht⟩

theorem registerRefusal_none {off n : Nat} : registerRefusal off n = none ↔ n = 4 ∧ off % 4 = 0 ∧ off < 0x100 := by
  unfold registerRefusal
  split_ifs <;> simp <;> omega

theorem obufRefusal_none {p : Params} {a n : Nat} :
    obufRefusal p a n = none ↔ (n = 1 ∧ a < p.obufCap) ∨ (n = 4 ∧ a % 4 = 0 ∧ a + 4 ≤ p.obufCap) := by
  unfold obufRefusal
  split_ifs <;> simp <;> omega

section equations
variable (s) {off a n : Nat} (d : Word) {r : Refusal}

theorem performAccess_regWrite_some (h : registerRefusal off n = some r) :
    performAccess (.regWrite off n d) s = .refused r := by simp only [performAccess, h]

theorem performAccess_regWrite_none (h : registerRefusal off n = none) :
    performAccess (.regWrite off n d) s = onNext (hostWrite off d s) fun t => .next (t, 0#32) := by
  simp only [performAccess, h]

theorem performAccess_regRead_some (h : registerRefusal off n = some r) :
    performAccess (.regRead off n) s = .refused r := by simp only [performAccess, h]

theorem performAccess_regRead_none (h : registerRefusal off n = none) :
    performAccess (.regRead off n) s = .next (s, readOffset off s) := by simp only [performAccess, h]

theorem performAccess_obufRead_some (h : obufRefusal s.cfg a n = some r) :
    performAccess (.obufRead a n) s = .refused r := by simp only [performAccess, h]

theorem performAccess_obufRead_none (h : obufRefusal s.cfg a n = none) :
    performAccess (.obufRead a n) s = .next ((readLE a n s).2, (readLE a n s).1) := by simp only [performAccess, h]

end equations

/-- An aligned 32-bit write inside the window is the register write (R97 to R101). -/
theorem performAccess_write {off : Nat} {d : Word} (h : off % 4 = 0) (h2 : off < 0x100)
    (hw : hostWrite off d s = .next t) : performAccess (.regWrite off 4 d) s = .next (t, 0#32) := by
  rw [performAccess_regWrite_none s d (registerRefusal_none.2 ⟨rfl, h, h2⟩), hw]
  rfl

/-- An aligned 32-bit read inside the window returns its register (R100). -/
theorem performAccess_read {off : Nat} (h : off % 4 = 0) (h2 : off < 0x100) (s : State) :
    performAccess (.regRead off 4) s = .next (s, readOffset off s) :=
  performAccess_regRead_none s (registerRefusal_none.2 ⟨rfl, h, h2⟩)

/-- What an access that answers does, outside the counter of free values: nothing, or a register write. -/
theorem performAccess_cases {a : Access} {v : Word} (h : performAccess a s = .next (t, v)) :
    (∃ k, t = s.setDraws k ∧ ∀ off n d, a ≠ .regWrite off n d) ∨
    (∃ off d, a = .regWrite off 4 d ∧ hostWrite off d s = .next t ∧ v = 0#32) := by
  cases a with
  | regWrite off n d =>
    cases hr : registerRefusal off n with
    | some r => rw [performAccess_regWrite_some s d hr] at h; cases h
    | none =>
      obtain ⟨rfl, -, -⟩ := registerRefusal_none.1 hr
      obtain ⟨u, hu⟩ := hostWrite_next off d s
      rw [performAccess_regWrite_none s d hr, hu] at h
      injection h with h
      injection h with h1 h2
      exact .inr ⟨off, d, rfl, by rw [hu, h1], h2.symm⟩
  | regRead off n =>
    cases hr : registerRefusal off n with
    | some r => rw [performAccess_regRead_some s hr] at h; cases h
    | none =>
      rw [performAccess_regRead_none s hr] at h
      injection h with h
      injection h with h1 h2
      exact .inl ⟨s.draws, h1.symm, nofun⟩
  | obufRead a n =>
    cases hr : obufRefusal s.cfg a n with
    | some r => rw [performAccess_obufRead_some s hr] at h; cases h
    | none =>
      rw [performAccess_obufRead_none s hr] at h
      injection h with h
      injection h with h1 h2
      obtain ⟨k, hk⟩ := readLE_state a n s
      exact .inl ⟨k, by rw [← h1, hk], nofun⟩
  | obufWrite a n d => cases h

/-- An access answers when it is one of the interface's, and is refused when it is not (R64, R104). -/
theorem performAccess_outcome (a : Access) (s : State) :
    (a.wf s.cfg = true ∧ ∃ r, performAccess a s = .next r) ∨
    (a.wf s.cfg = false ∧ ∃ r, performAccess a s = .refused r) := by
  rw [← Bool.not_eq_true]
  cases a with
  | regWrite off n d =>
    have hw : Access.wf s.cfg (.regWrite off n d) = true ↔ registerRefusal off n = none := by
      rw [registerRefusal_none]; simp [Access.wf, and_assoc]
    rw [hw]
    cases hr : registerRefusal off n with
    | some r => exact .inr ⟨nofun, r, performAccess_regWrite_some s d hr⟩
    | none =>
      obtain ⟨u, hu⟩ := hostWrite_next off d s
      exact .inl ⟨rfl, (u, 0#32), by rw [performAccess_regWrite_none s d hr, hu]; rfl⟩
  | regRead off n =>
    have hw : Access.wf s.cfg (.regRead off n) = true ↔ registerRefusal off n = none := by
      rw [registerRefusal_none]; simp [Access.wf, and_assoc]
    rw [hw]
    cases hr : registerRefusal off n with
    | some r => exact .inr ⟨nofun, r, performAccess_regRead_some s hr⟩
    | none => exact .inl ⟨rfl, _, performAccess_regRead_none s hr⟩
  | obufRead a n =>
    have hw : Access.wf s.cfg (.obufRead a n) = true ↔ obufRefusal s.cfg a n = none := by
      rw [obufRefusal_none]; simp [Access.wf, and_assoc]
    rw [hw]
    cases hr : obufRefusal s.cfg a n with
    | some r => exact .inr ⟨nofun, r, performAccess_obufRead_some s hr⟩
    | none => exact .inl ⟨rfl, _, performAccess_obufRead_none s hr⟩
  | obufWrite a n d => exact .inr ⟨nofun, _, rfl⟩

/-- What a host statement that answers does: it moves only the host's own state (and the counter of free values), or it writes
a register. -/
theorem execStmt_cases {st : HostStmt} (h : execStmt st s = .next t) :
    (∃ k pc ts, t = { s with draws := k, hpc := pc, temps := ts }
      ∧ ∀ off n d, HostStmt.access? st ≠ some (.regWrite off n d)) ∨
    (∃ off d, HostStmt.access? st = some (.regWrite off 4 d) ∧ hostWrite off d s.advance = .next t) := by
  have only : ∀ a : Access, HostStmt.access? st = some a → accessOnly a s.advance = .next t →
      (∃ k pc ts, t = { s with draws := k, hpc := pc, temps := ts }
        ∧ ∀ off n d, HostStmt.access? st ≠ some (.regWrite off n d)) ∨
      (∃ off d, HostStmt.access? st = some (.regWrite off 4 d) ∧ hostWrite off d s.advance = .next t) := by
    intro a ha h
    unfold accessOnly onNext at h
    split at h
    · rename_i r hr
      injection h with h
      rcases performAccess_cases (t := r.1) (v := r.2) hr with ⟨k, hk, hn⟩ | ⟨off, d, he, hw, -⟩
      · refine .inl ⟨k, s.hpc + 1, s.temps, by rw [← h, hk]; rfl, fun off n d hc => ?_⟩
        rw [ha] at hc
        injection hc with hc
        exact hn off n d hc
      · exact .inr ⟨off, d, by rw [ha, he], by rw [hw, h]⟩
    · cases h
    · cases h
  have into : ∀ (a : Access) (d : Temp), HostStmt.access? st = some a → (∀ off n v, a ≠ .regWrite off n v) →
      accessInto a d s.advance = .next t →
      (∃ k pc ts, t = { s with draws := k, hpc := pc, temps := ts }
        ∧ ∀ off n d, HostStmt.access? st ≠ some (.regWrite off n d)) := by
    intro a d ha hn h
    unfold accessInto onNext at h
    split at h
    · rename_i r hr
      injection h with h
      rcases performAccess_cases (t := r.1) (v := r.2) hr with ⟨k, hk, -⟩ | ⟨off, d, he, -, -⟩
      · refine ⟨k, s.hpc + 1, s.temps.set r.2 d, by rw [← h, hk]; rfl, fun off n v hc => ?_⟩
        rw [ha] at hc
        injection hc with hc
        exact hn off n v hc
      · exact absurd he (hn _ _ _)
    · cases h
    · cases h
  cases st with
  | wr off v => exact only _ rfl h
  | rd off d => exact .inl (into _ d rfl nofun h)
  | rdb a d => exact .inl (into _ d rfl nofun h)
  | rdw a d => exact .inl (into _ d rfl nofun h)
  | jbs x bit target =>
    injection h with h
    refine .inl ⟨s.draws, t.hpc, s.temps, ?_, nofun⟩
    subst h
    split <;> rfl
  | jbc x bit target =>
    injection h with h
    refine .inl ⟨s.draws, t.hpc, s.temps, ?_, nofun⟩
    subst h
    split <;> rfl
  | halt =>
    injection h with h
    exact .inl ⟨s.draws, s.hpc, s.temps, by rw [← h], nofun⟩
  | access a => exact only a rfl h

/-- A host statement answers unless its access is outside the interface, and then it is refused. -/
theorem execStmt_outcome (st : HostStmt) (s : State) :
    (∃ t, execStmt st s = .next t) ∨
    ((∃ r, execStmt st s = .refused r) ∧ ∃ a, HostStmt.access? st = some a ∧ a.wf s.cfg = false) := by
  have acc : ∀ a : Access, (∃ r, performAccess a s.advance = .next r) ∨
      ((∃ r, performAccess a s.advance = .refused r) ∧ a.wf s.cfg = false) := by
    intro a
    rcases performAccess_outcome a s.advance with ⟨-, h⟩ | ⟨hw, h⟩
    · exact .inl h
    · exact .inr ⟨h, hw⟩
  have fin : ∀ (a : Access) (o : Host.Outcome State Fault Refusal) (f : State × Word → Host.Outcome State Fault Refusal),
      HostStmt.access? st = some a → o = onNext (performAccess a s.advance) f → (∀ r, ∃ t, f r = .next t) →
      (∃ t, o = .next t) ∨ ((∃ r, o = .refused r) ∧ ∃ a, HostStmt.access? st = some a ∧ a.wf s.cfg = false) := by
    intro a o f ha ho hf
    rcases acc a with ⟨r, hr⟩ | ⟨⟨r, hr⟩, hw⟩
    · obtain ⟨t, ht⟩ := hf r
      exact .inl ⟨t, by rw [ho, hr]; exact ht⟩
    · exact .inr ⟨⟨r, by rw [ho, hr]; rfl⟩, a, ha, hw⟩
  cases st with
  | wr off v => exact fin _ _ _ rfl rfl fun r => ⟨_, rfl⟩
  | rd off d => exact fin _ _ _ rfl rfl fun r => ⟨_, rfl⟩
  | rdb a d => exact fin _ _ _ rfl rfl fun r => ⟨_, rfl⟩
  | rdw a d => exact fin _ _ _ rfl rfl fun r => ⟨_, rfl⟩
  | jbs x bit target => exact .inl ⟨_, rfl⟩
  | jbc x bit target => exact .inl ⟨_, rfl⟩
  | halt => exact .inl ⟨_, rfl⟩
  | access a => exact fin _ _ _ rfl rfl fun r => ⟨_, rfl⟩

end Sys2Proof.Machine
end

