-- ==== Sys2Proof/Laws/Listing.lean ====
section
/-! SUPPORT. The listing of a script (30_encoding.md R68): its rows are the transactions of the run, in order, and every
statement of an assembled script has the script line it comes from. -/

namespace Sys2Proof.Machine

section

variable (s : State) (script : List HostStmt)

@[simp] theorem State.withScript_script : (s.withScript script).script = script := rfl
@[simp] theorem State.withScript_hpc : (s.withScript script).hpc = 0 := rfl
@[simp] theorem State.withScript_state : (s.withScript script).state = s.state := rfl
@[simp] theorem State.withScript_width : (s.withScript script).width = s.width := rfl
@[simp] theorem State.withScript_height : (s.withScript script).height = s.height := rfl
@[simp] theorem State.withScript_intensity : (s.withScript script).intensity = s.intensity := rfl
@[simp] theorem State.withScript_seed : (s.withScript script).seed = s.seed := rfl
@[simp] theorem State.withScript_result : (s.withScript script).result = s.result := rfl
@[simp] theorem State.withScript_length : (s.withScript script).length = s.length := rfl
@[simp] theorem State.withScript_status : (s.withScript script).status = s.status := rfl
@[simp] theorem State.withScript_x : (s.withScript script).x = s.x := rfl
@[simp] theorem State.withScript_y : (s.withScript script).y = s.y := rfl
@[simp] theorem State.withScript_waddr : (s.withScript script).waddr = s.waddr := rfl
@[simp] theorem State.withScript_obuf : (s.withScript script).obuf = s.obuf := rfl
@[simp] theorem State.withScript_cfg : (s.withScript script).cfg = s.cfg := rfl
@[simp] theorem State.withScript_draws : (s.withScript script).draws = s.draws := rfl
@[simp] theorem State.withScript_temps : (s.withScript script).temps = s.temps := rfl
@[simp] theorem State.withScript_schedule : (s.withScript script).schedule = s.schedule := rfl

end

/-- An expansion has as many statements as its line counts. -/
theorem length_expandStmt {find : Label → Option Nat} {here : Nat} {st : SrcStmt} {e : List HostStmt}
    (h : expandStmt find here st = some e) : e.length = st.count := by
  cases st <;> simp only [expandStmt, Option.map_eq_some_iff, Option.some.injEq] at h <;>
    first
    | (subst h; rfl)
    | (obtain ⟨_, -, rfl⟩ := h; rfl)

/-- An assembled script has as many statements as its lines count together. -/
theorem length_expandLines {find : Label → Option Nat} {lines : List SrcLine} {here : Nat} {script : List HostStmt}
    (h : expandLines find here lines = some script) : script.length = (lines.map fun l => l.stmt.count).sum := by
  induction lines generalizing here script with
  | nil => cases h; rfl
  | cons l rest ih =>
    simp only [expandLines] at h
    split at h
    · next now later h1 h2 => cases h; simp [length_expandStmt h1, ih h2]
    · cases h

/-- Every statement below the count of a script's lines comes from one of them. -/
theorem lineIndex_of_lt {lines : List SrcLine} {i : Nat} (h : i < (lines.map fun l => l.stmt.count).sum) :
    ∃ n, lineIndex lines i = some n ∧ n < lines.length := by
  induction lines generalizing i with
  | nil => exact absurd h (Nat.not_lt_zero i)
  | cons l rest ih =>
    simp only [List.map_cons, List.sum_cons] at h
    by_cases hi : i < l.stmt.count
    · exact ⟨0, by simp [lineIndex, hi], by simp⟩
    · obtain ⟨n, hn, hl⟩ := ih (i := i - l.stmt.count) (by omega)
      exact ⟨n + 1, by simp [lineIndex, hi, hn], by simpa using hl⟩

/-- Every statement of an assembled script has the script line it comes from (R68). -/
theorem sourceLine_of_assemble {lines : List SrcLine} {script : List HostStmt} (h : assemble lines = some script) {i : Nat}
    (hi : i < script.length) : ∃ l ∈ lines, sourceLine lines i = some l := by
  simp only [assemble] at h
  split at h
  · obtain ⟨n, hn, hl⟩ := lineIndex_of_lt (length_expandLines h ▸ hi)
    exact ⟨lines[n], List.getElem_mem hl, by simp [sourceLine, hn, hl]⟩
  · cases h

/-- A text's lines that hold a statement are as many as the lines read from it, so each has its own text beside it. -/
theorem length_parseScript {text : List Char} {lines : List SrcLine} (h : parseScript text = some lines) :
    (statementTexts text).length = lines.length := by
  unfold parseScript at h
  unfold statementTexts
  generalize splitLines [] text = ls at h ⊢
  induction ls generalizing lines with
  | nil => cases h; rfl
  | cons l rest ih =>
    simp only [parseLines] at h
    split at h
    · cases h
    · next ht => simp [ht, ih h]
    · next ht =>
      simp only [Option.bind_eq_some_iff, Option.map_eq_some_iff] at h
      obtain ⟨now, -, later, hl, rfl⟩ := h
      simp [ht, ih hl]

/-- The transactions of the rows are the transactions of the run, in order, whatever stands beside them (R68). -/
theorem transactions_listingRows {α : Type} (source : Nat → Option α) (k : Nat) (s : State) :
    (listingRows source k s).map (·.transaction) = listing k s := by
  induction k generalizing s with
  | zero => rfl
  | succ k ih =>
    simp only [listingRows, listing, stepRow, List.map_append]
    congr 1
    · cases stepLine s <;> rfl
    · cases step s with
      | next t => exact ih t
      | fault r => rfl
      | refused r => rfl

end Sys2Proof.Machine
end

