-- ==== Sys2Proof/Laws/PerInstr.lean ====
section
/-! SUPPORT. One lemma per command about it as syntax: it is well formed, its word has RSV = 0 (30_encoding.md R57), and decoding
its word gives it back, from the bits and from the table's numbering alike (R58, R59). -/

namespace Sys2Proof.Laws.RoundTrip

/-- The command is well formed, its word keeps the reserved field 0, and its word decodes to it. -/
def Statement (i : Instr) : Prop :=
  i.wf = true ∧ fieldRsv (encode i) = 0#24 ∧ decode (encode i) = .ok i ∧ decodeTableWord 32 (encode i).toNat = some i

theorem init : Statement .init := ⟨rfl, rfl, rfl, rfl⟩

theorem nextWord : Statement .nextWord := ⟨rfl, rfl, rfl, rfl⟩

theorem nextByte : Statement .nextByte := ⟨rfl, rfl, rfl, rfl⟩

theorem generate : Statement .generate := ⟨rfl, rfl, rfl, rfl⟩

end Sys2Proof.Laws.RoundTrip
end

