-- ==== Sys2Proof/Laws/Step.lean ====
section
/-! SUPPORT. The step: everything one step can do, said once, with the turn it is, and what each kind of step leaves of the
block. Later proofs cite `step_cases` and never unfold the step. -/

namespace Sys2Proof.Machine

variable {s t : State}

/-- Taking the turn off the schedule changes nothing but the schedule. -/
theorem nextTurn_state (s : State) : ∃ l, (nextTurn s).2 = s.setSchedule l := by
  unfold nextTurn
  cases h : s.schedule with
  | nil => exact ⟨[], by cases s; cases h; rfl⟩
  | cons t rest => exact ⟨rest, rfl⟩

/-- The host's next statement is the same before and after the turn is taken off. -/
theorem hostStmt_setSchedule (s : State) (l : List Turn) : hostStmt (s.setSchedule l) = hostStmt s := rfl

/-- Everything a step can do: an engine step, an engine's turn with no step, a reset, or the host's turn, in which nothing of
the block changes, or a register is written. -/
theorem step_cases (h : step s = .next t) :
    ∃ l, (nextTurn s).2 = s.setSchedule l ∧
      (((nextTurn s).1 = .engine ∧ s.busy = true ∧ pixelStep (s.setSchedule l) = .next t) ∨
      ((nextTurn s).1 = .engine ∧ s.busy = false ∧ t = s.setSchedule l) ∨
      ((nextTurn s).1 = .reset ∧ t = resetBlock (s.setSchedule l)) ∨
      ((nextTurn s).1 = .host ∧ (∃ k pc ts, t = { s.setSchedule l with draws := k, hpc := pc, temps := ts })
        ∧ nextRegWrite s = none) ∨
      ((nextTurn s).1 = .host ∧ ∃ off d, nextRegWrite s = some (off, d)
        ∧ hostWrite off d (s.setSchedule l).advance = .next t)) := by
  obtain ⟨l, hl⟩ := nextTurn_state s
  refine ⟨l, hl, ?_⟩
  unfold step at h
  rw [hl] at h
  cases ht : (nextTurn s).1 with
  | engine =>
    rw [ht] at h
    cases hb : s.busy with
    | true =>
      refine .inl ⟨rfl, rfl, ?_⟩
      have : engineTurn (s.setSchedule l) = pixelStep (s.setSchedule l) := if_pos hb
      exact this ▸ h
    | false =>
      refine .inr (.inl ⟨rfl, rfl, ?_⟩)
      have : engineTurn (s.setSchedule l) = .next (s.setSchedule l) := if_neg (by
        show ¬ s.busy = true
        simp [hb])
      have h2 : engineTurn (s.setSchedule l) = .next t := h
      rw [this] at h2
      injection h2 with h2
      exact h2.symm
  | reset =>
    rw [ht] at h
    injection h with h
    exact .inr (.inr (.inl ⟨rfl, h.symm⟩))
  | host =>
    rw [ht] at h
    have h2 : hostTurn (s.setSchedule l) = .next t := h
    unfold hostTurn at h2
    rw [hostStmt_setSchedule] at h2
    have hna : nextAccess s = (hostStmt s).bind HostStmt.access? := by unfold nextAccess; rw [ht]
    cases hs : hostStmt s with
    | none =>
      rw [hs] at h2
      injection h2 with h2
      refine .inr (.inr (.inr (.inl ⟨rfl, ⟨s.draws, s.hpc, s.temps, h2.symm⟩, ?_⟩)))
      unfold nextRegWrite
      rw [hna, hs]; rfl
    | some st =>
      rw [hs] at h2
      rcases execStmt_cases h2 with ⟨k, pc, ts, he, hn⟩ | ⟨off, d, ha, hw⟩
      · refine .inr (.inr (.inr (.inl ⟨rfl, ⟨k, pc, ts, he⟩, ?_⟩)))
        unfold nextRegWrite
        rw [hna, hs]
        show (match HostStmt.access? st with
          | some (.regWrite off bytes v) => if bytes = 4 then some (off, v) else none
          | some (.regRead _ _) => none
          | some (.obufRead _ _) => none
          | some (.obufWrite _ _ _) => none
          | none => none) = none
        split
        · rename_i off n d hc
          exact absurd hc (hn off n d)
        · rfl
        · rfl
        · rfl
        · rfl
      · refine .inr (.inr (.inr (.inr ⟨rfl, off, d, ?_, hw⟩)))
        unfold nextRegWrite
        rw [hna, hs]
        show (match HostStmt.access? st with
          | some (.regWrite off bytes v) => if bytes = 4 then some (off, v) else none
          | some (.regRead _ _) => none
          | some (.obufRead _ _) => none
          | some (.obufWrite _ _ _) => none
          | none => none) = _
        rw [ha]
        rfl

end Sys2Proof.Machine
end

