-- ==== Sys2Proof/Tests/Slice0.lean ====
section
/-! SUPPORT. The model's own tests: decoding of words written out from 30_encoding.md R57 to R59, ill-formed terms the checks
refuse, a few single steps with the results 95_test_vectors.md gives, and for every statement that has hypotheses a state
and operands that meet them all. -/

namespace Sys2Proof.Tests

open Sys2Proof.Machine

/-! ## Helpers -/

/-- The next state of an outcome, if there is one. -/
def nextOf {σ φ ρ : Type} : Host.Outcome σ φ ρ → Option σ
  | .next s => some s
  | .fault _ => none
  | .refused _ => none

/-- The refusal of an outcome, if it is one. -/
def refusalOf {σ φ ρ : Type} : Host.Outcome σ φ ρ → Option ρ
  | .next _ => none
  | .fault _ => none
  | .refused r => some r

/-- The reset state under the configuration of 95_test_vectors.md: ADDR_W = 16, OBUF_CAP = 256. -/
def idle : State := { State.reset with cfg := ⟨16, 256⟩ }

/-- The idle state with these parameters. -/
def image (w h seed : Word) : State := { idle with width := w, height := h, seed := seed }

/-- A GENERATE of these parameters just accepted. -/
def started (w h seed : Word) : State := { image w h seed with state := seed, status := 0x00000001#32 }

/-- V3 (2 x 1, seed 0) after its first pixel step. -/
def halfway : State :=
  { started 2#32 1#32 0#32 with
    state := 0x3C6EF35F#32, x := 1#32, waddr := 4, obuf := [(0, 60#8), (1, 60#8), (2, 60#8), (3, 255#8)] }

/-- V3 completed. -/
def finished : State :=
  { image 2#32 1#32 0#32 with
    state := 0x47502932#32, y := 1#32, waddr := 8, length := 8#64, status := 0x00000002#32,
    obuf := [(0, 60#8), (1, 60#8), (2, 60#8), (3, 255#8), (4, 71#8), (5, 71#8), (6, 71#8), (7, 255#8)] }

/-- A state whose host is about to perform a statement. -/
def doing (st : HostStmt) (s : State) : State := { s with script := [st] }

/-! ## Decoding (R57 to R59, V20) -/

theorem test_decode_init : decode 0b00000000000000000000000000000001#32 = .ok .init := rfl

theorem test_decode_nextWord : decode 0b00000000000000000000000000000010#32 = .ok .nextWord := rfl

theorem test_decode_nextByte : decode 0b00000000000000000000000000000011#32 = .ok .nextByte := rfl

theorem test_decode_generate : decode 0b00000000000000000000000000000100#32 = .ok .generate := rfl

theorem test_decode_reserved : decode 0b00000000000000000000000100000100#32 = .error .reservedBits
    ∧ decode 0b10000000000000000000000000000001#32 = .error .reservedBits := ⟨rfl, rfl⟩

theorem test_decode_unknown : decode 0b00000000000000000000000000000000#32 = .error .unknownOp
    ∧ decode 0b00000000000000000000000000000101#32 = .error .unknownOp := ⟨rfl, rfl⟩

/-! ## Ill-formed terms (R64, R65, R104, V43; R5, R6) -/

theorem test_wf_commands : ∀ i ∈ [Instr.init, .nextWord, .nextByte, .generate], i.wf = true := by decide

theorem test_wf_accesses : ∀ a ∈ [Access.regWrite 0xFC 4 0#32, .regRead 0x00 4, .obufRead 255 1, .obufRead 252 4],
    a.wf ⟨16, 256⟩ = true := by decide

theorem test_illformed_register_accesses :
    ∀ a ∈ [Access.regWrite 0x08 1 0#32, .regRead 0x06 4, .regWrite 0x100 4 0#32, .regRead 0x00 2],
      a.wf ⟨16, 256⟩ = false := by decide

theorem test_illformed_obuf_accesses :
    ∀ a ∈ [Access.obufRead 256 1, .obufRead 2 4, .obufRead 253 4, .obufRead 256 4, .obufRead 0 2, .obufWrite 0 4 0#32],
      a.wf ⟨16, 256⟩ = false := by decide

theorem test_illformed_statements :
    scriptWf ⟨16, 256⟩ [.jbs .t7 0 1] = false ∧ scriptWf ⟨16, 256⟩ [.jbc .t0 31 2, .halt] = false
      ∧ scriptWf ⟨16, 256⟩ [.wr 0x02 0#32] = false ∧ scriptWf ⟨16, 256⟩ [.rd 0x100 .t0] = false
      ∧ scriptWf ⟨16, 256⟩ [.rdb 256 .t0] = false ∧ scriptWf ⟨16, 256⟩ [.rdw 253 .t0] = false
      ∧ scriptWf ⟨16, 256⟩ [.access (.obufWrite 0 1 0#32)] = false
      ∧ scriptWf ⟨16, 256⟩ [.rd 0x04 .t7, .jbs .t7 0 0, .halt] = true := by decide

theorem test_illformed_params :
    ¬ Params.wf ⟨1, 0⟩ ∧ ¬ Params.wf ⟨63, 0⟩ ∧ ¬ Params.wf ⟨2, 5⟩ ∧ Params.wf ⟨2, 4⟩ ∧ Params.wf ⟨62, 0⟩ := by
  decide

theorem test_illformed_memory :
    ¬ Memory.wf [(1, 0#8), (0, 0#8)] ∧ ¬ Memory.wf [(1, 0#8), (1, 1#8)] ∧ Memory.wf [(0, 0#8), (1, 0#8)] := by
  decide

/-! ## Single transitions (95_test_vectors.md) -/

/-- V13, first row. -/
theorem test_init : (nextOf (takeCommand 1#32 (image 0#32 0#32 0x12345678#32))).map (fun t => (t.state, t.result, t.status))
    = some (0x12345678#32, 0#32, 0x00000002#32) := by decide

/-- V10, the row of 0xFFFFFFFF. -/
theorem test_nextWord : (nextOf (takeCommand 2#32 { idle with state := 0xFFFFFFFF#32 })).map
    (fun t => (t.state, t.result, t.status)) = some (0x3C558D52#32, 0x3C558D52#32, 0x00000002#32) := by decide

/-- V13, third row. -/
theorem test_nextByte : (nextOf (takeCommand 3#32 { idle with state := 0x3C6EF35F#32 })).map
    (fun t => (t.state, t.result, t.status)) = some (0x47502932#32, 0x00000047#32, 0x00000002#32) := by decide

/-- V31, rows 9 x 8, 0x10000 x 1, 8 x 8 and 0 x 5: STATUS after the take. -/
theorem test_generate_take :
    [image 9#32 8#32 42#32, image 0x10000#32 1#32 42#32, image 8#32 8#32 42#32, image 0#32 5#32 42#32].map
        (fun s => (nextOf (takeCommand 4#32 s)).map fun t => (t.status, t.state))
      = [some (0x00000306#32, 0#32), some (0x00000206#32, 0#32), some (0x00000001#32, 42#32),
        some (0x00000002#32, 42#32)] := by decide

/-- V3: the second pixel step of the 2 x 1 image completes it. -/
theorem test_generate_last_pixel : nextOf (engineTurn halfway) = some finished := by decide

/-- V40, rows 1, 2 and 4. -/
theorem test_register_writes :
    (nextOf (performAccess (.regWrite 0x10 4 0x1234#32) idle)).map (fun r => readOffset 0x10 r.1) = some 0x34#32
      ∧ (nextOf (performAccess (.regWrite 0x18 4 0xAAAAAAAA#32) idle)).map (fun r => readOffset 0x18 r.1) = some 0#32
      ∧ (nextOf (performAccess (.regWrite 0x40 4 1#32) idle)).map (fun r => readOffset 0x40 r.1) = some 0#32 := by
  decide

/-- V3: the words at 0 and 4 and the byte at 4 of the 2 x 1 image. -/
theorem test_obuf_reads :
    (nextOf (performAccess (.obufRead 0 4) finished)).map (·.2) = some 0xFF3C3C3C#32
      ∧ (nextOf (performAccess (.obufRead 4 4) finished)).map (·.2) = some 0xFF474747#32
      ∧ (nextOf (performAccess (.obufRead 4 1) finished)).map (·.2) = some 71#32 := by decide

/-- V43. -/
theorem test_refused :
    [Access.regWrite 0x08 1 0#32, .regRead 0x06 4, .obufRead 2 4, .obufRead 256 1, .obufRead 253 4, .obufWrite 0 4 0#32].map
        (fun a => refusalOf (performAccess a idle))
      = [some .registerWidth, some .registerMisaligned, some .obufMisaligned, some .obufOutside, some .obufMisaligned,
        some .obufWrite] := by decide

/-- V41: a write that arrives while BUSY = 1 is dropped. -/
theorem test_dropped_write : (nextOf (step { doing (.wr 0x14 99#32) (started 4#32 4#32 7#32) with schedule := [.host] })).map
    (fun t => (t.seed, t.status)) = some (7#32, 0x00000009#32) := by decide

/-- The hook runs the placed word as the very first command after reset. -/
theorem test_placed_word :
    (nextOf (step (State.reset.withFetchWord 32 2))).map (fun t => (t.state, t.result)) = some (0x3C6EF35F#32, 0x3C6EF35F#32)
      ∧ (nextOf (step (State.reset.withFetchWord 32 4))).map (fun t => t.status) = some 0x00000002#32 := by decide

/-- Lines of S4, with a label, a comment and both kinds of literal (R65, R66). -/
theorem test_script_text :
    loadText "      wr WIDTH, 9  ; W 0x08\n  jbc t0, 2, done ; ERR\n\ncmd GENERATE\n wait\ndone: rdw 0xC -> t3\n halt".toList
      = some [.wr 0x08 9#32, .jbc .t0 2 5, .wr 0x00 4#32, .rd 0x04 .t7, .jbs .t7 0 3, .rdw 12 .t3, .halt] := by decide

/-- A label without its statement, a missing label, a value above 32 bits, an unknown register. -/
theorem test_script_text_bad :
    ["jbs t0, 0, nowhere", "x:", "wr WIDTH, 0x100000000", "wr FOO, 1"].map (fun l => loadText l.toList)
      = [none, none, none, none] := by decide

/-- S2, its first line and its poll of STATUS: each transaction beside its script line (R68). -/
theorem test_listing_rows :
    (textListing "; S2\nseed 0\nrd STATUS -> t4 ; poll\nhalt".toList [] 4 idle).map
        (fun rows => rows.map fun r => (r.transaction.written, r.source))
      = some [("W 0x14 0x00000000".toList, some "seed 0".toList), ("W 0x00 0x00000001".toList, some "seed 0".toList),
        ("R 0x04 -> 0x00000002".toList, some "rd STATUS -> t4 ; poll".toList)] := by decide

/-- S1 and S3: the written forms of OBUF reads (R64). -/
theorem test_listing_forms :
    [ListingLine.d 0 0xFF3C3C3C#32, .b 4 71#8, .d 12 0xFF4B4B4B#32].map ListingLine.written
      = ["D 0x0 -> 0xFF3C3C3C".toList, "B 0x4 -> 71".toList, "D 0xC -> 0xFF4B4B4B".toList] := by decide

/-! ## The invariant holds in some states of every kind -/

theorem started_inv : Inv (started 2#32 1#32 0#32) where
  cfgWf := by decide
  obufWf := by decide
  obufInside := by decide
  status := ⟨by decide, by decide, by decide, by decide⟩
  waddrLe := by decide
  lengthLe := by decide
  lengthQuads := by decide
  resultQuads := fun p h => absurd h (Nat.not_lt_zero _)
  busy := fun _ => ⟨by decide, by decide, by decide, by decide, by decide, by decide, by decide⟩

theorem halfway_inv : Inv halfway where
  cfgWf := by decide
  obufWf := by decide
  obufInside := by decide
  status := ⟨by decide, by decide, by decide, by decide⟩
  waddrLe := by decide
  lengthLe := by decide
  lengthQuads := by decide
  resultQuads := fun p h => absurd h (Nat.not_lt_zero _)
  busy := fun _ => ⟨by decide, by decide, by decide, by decide, by decide, by decide, by decide⟩

/-- The state right before the one pixel step of a 1 x 1 image, with an older result's bytes in OBUF and OVR set. -/
def lastPixel : State :=
  { started 1#32 1#32 0#32 with status := 0x00000009#32, obuf := [(0, 1#8), (1, 1#8), (2, 1#8), (3, 255#8), (9, 5#8)] }

theorem lastPixel_inv : Inv lastPixel where
  cfgWf := by decide
  obufWf := by decide
  obufInside := by decide
  status := ⟨by decide, by decide, by decide, by decide⟩
  waddrLe := by decide
  lengthLe := by decide
  lengthQuads := by decide
  resultQuads := fun p h => absurd h (Nat.not_lt_zero _)
  busy := fun _ => ⟨by decide, by decide, by decide, by decide, by decide, by decide, by decide⟩

theorem image_inv : Inv (image 1#32 1#32 0#32) where
  cfgWf := by decide
  obufWf := by decide
  obufInside := by decide
  status := ⟨by decide, by decide, by decide, by decide⟩
  waddrLe := by decide
  lengthLe := by decide
  lengthQuads := by decide
  resultQuads := fun p h => absurd h (Nat.not_lt_zero _)
  busy := fun h => absurd h (by decide)

theorem finished_inv : Inv finished where
  cfgWf := by decide
  obufWf := by decide
  obufInside := by decide
  status := ⟨by decide, by decide, by decide, by decide⟩
  waddrLe := by decide
  lengthLe := by decide
  lengthQuads := by decide
  resultQuads := fun p h => by
    have hp : p < 2 := by change 4 * p < 8 at h; omega
    match p, hp with
    | 0, _ => exact ⟨60#8, by decide⟩
    | 1, _ => exact ⟨71#8, by decide⟩
  busy := fun h => absurd h (by decide)

/-- An idle block that has drawn before and holds other bytes, about to generate the same 1 x 1 image. -/
def other : State :=
  { image 1#32 1#32 0#32 with state := 5#32, intensity := 200#8, status := 0x00000002#32, obuf := [(0, 9#8), (7, 9#8)] }

theorem other_inv : Inv other where
  cfgWf := by decide
  obufWf := by decide
  obufInside := by decide
  status := ⟨by decide, by decide, by decide, by decide⟩
  waddrLe := by decide
  lengthLe := by decide
  lengthQuads := by decide
  resultQuads := fun p h => absurd h (Nat.not_lt_zero _)
  busy := fun h => absurd h (by decide)

/-! ## Witnesses: the hypotheses of each statement can be met, each clause at a boundary value -/

theorem witness_ExactlyFourWordsAreLegal :
    (∃ e, decode 0#32 = .error e) ∧ (∃ e, decode 5#32 = .error e) ∧ (∃ e, decode 0x100#32 = .error e)
      ∧ ∃ e, decode 0xFFFFFFFF#32 = .error e := ⟨⟨_, rfl⟩, ⟨_, rfl⟩, ⟨_, rfl⟩, ⟨_, rfl⟩⟩

theorem witness_IllegalWordsChangeOnlyStatus :
    fieldRsv 0x00000100#32 ≠ 0#24 ∧ fieldRsv 0x80000001#32 ≠ 0#24
      ∧ (fieldOp 0x00#32 ≠ 0x01#8 ∧ fieldOp 0x00#32 ≠ 0x02#8 ∧ fieldOp 0x00#32 ≠ 0x03#8 ∧ fieldOp 0x00#32 ≠ 0x04#8)
      ∧ (fieldOp 0x05#32 ≠ 0x01#8 ∧ fieldOp 0x05#32 ≠ 0x02#8 ∧ fieldOp 0x05#32 ≠ 0x03#8 ∧ fieldOp 0x05#32 ≠ 0x04#8)
      ∧ idle.busy = false := by decide

theorem witness_StepTakesTheCommandWritten :
    ((nextTurn (doing (.wr 0x00 4#32) idle)).1 = .host ∧ hostStmt (doing (.wr 0x00 4#32) idle) = some (.wr 0x00 4#32)
        ∧ (doing (.wr 0x00 4#32) idle).busy = false ∧ decode 4#32 = .ok .generate)
      ∧ (nextTurn (doing (.wr 0x00 5#32) idle)).1 = .host ∧ hostStmt (doing (.wr 0x00 5#32) idle) = some (.wr 0x00 5#32)
        ∧ (doing (.wr 0x00 5#32) idle).busy = false ∧ decode 5#32 = .error .unknownOp :=
  ⟨⟨by decide, rfl, by decide, rfl⟩, by decide, rfl, by decide, rfl⟩

theorem witness_TakeClearsTheRecordAndPerforms :
    (∀ i ∈ [Instr.init, .nextWord, .nextByte, .generate], (nextOf (exec i (clearRecord finished))).isSome)
      ∧ finished.busy = false ∧ decode 1#32 = .ok .init ∧ decode 2#32 = .ok .nextWord ∧ decode 3#32 = .ok .nextByte
      ∧ decode 4#32 = .ok .generate ∧ decode 5#32 = .error .unknownOp ∧ decode 0x100#32 = .error .reservedBits :=
  ⟨by decide, by decide, rfl, rfl, rfl, rfl, rfl, rfl⟩

theorem witness_PlacedWordIsTheNextCommand :
    decodeTableWord 32 1 = some .init ∧ decodeTableWord 32 2 = some .nextWord ∧ decodeTableWord 32 3 = some .nextByte
      ∧ decodeTableWord 32 4 = some .generate := by decide

theorem witness_EachStepIsOneAgentsTransition :
    (∀ x ∈ [Turn.host, .engine, .reset], { started 2#32 1#32 0#32 with schedule := [x] }.schedule = x :: [])
      ∧ { started 2#32 1#32 0#32 with schedule := [.engine] }.busy = true
      ∧ { idle with schedule := [.engine] }.busy = false ∧ (started 2#32 1#32 0#32).schedule = []
      ∧ (started 2#32 1#32 0#32).busy = true ∧ idle.schedule = [] ∧ idle.busy = false := by decide

theorem witness_InitSeedsTheState :
    idle.seed = 0#32 ∧ (image 0#32 0#32 0x12345678#32).seed = 0x12345678#32
      ∧ (image 0#32 0#32 0x12345678#32).busy = false
      ∧ (image 0#32 0#32 0x12345678#32).status &&& 0xFFFF00F0#32 = 0#32 := by decide

theorem witness_NextWordReturnsTheNewState : idle.seed = 0#32 := rfl

theorem witness_NextByteReturnsTheTopByte : idle.seed = 0#32 := rfl

theorem witness_LcgCommandsFinishInTheirTake : idle.busy = false ∧ finished.busy = false := by decide

theorem witness_LcgStepIsABijection : lcgIter 0 7#32 = lcgIter 0 7#32 ∧ lcgIter 2 0#32 = lcgIter 2 0#32 := ⟨rfl, rfl⟩

theorem witness_LowBitsHaveShortPeriods :
    (0#32).toNat % 2 ^ 1 = (2#32).toNat % 2 ^ 1 ∧ (0x80000000#32).toNat % 2 ^ 31 = (0#32).toNat % 2 ^ 31
      ∧ (5#32).toNat % 2 ^ 32 = (5#32).toNat % 2 ^ 32 := by decide

theorem witness_SequenceAfterInit :
    (∀ i ∈ ([] : List Instr), i = .nextWord ∨ i = .nextByte)
      ∧ ∀ i ∈ [Instr.nextWord, .nextByte], i = .nextWord ∨ i = .nextByte := by decide

theorem witness_OversizedGenerateFails :
    size (image 16385#32 1#32 0#32) > 2 ^ (image 16385#32 1#32 0#32).cfg.addrW
      ∧ size (image 0xFFFFFFFF#32 0xFFFFFFFF#32 0#32) > 2 ^ (image 0xFFFFFFFF#32 0xFFFFFFFF#32 0#32).cfg.addrW
      ∧ (∀ s ∈ [image 0x4000#32 1#32 0#32, image 65#32 1#32 0#32],
          size s ≤ 2 ^ s.cfg.addrW ∧ size s > s.cfg.obufCap)
      ∧ size { image 0x4000#32 1#32 0#32 with cfg := ⟨16, 65536⟩ } = 2 ^ 16 := by decide

theorem witness_AcceptedGenerateStarts :
    (∀ s ∈ [image 8#32 8#32 0#32, image 1#32 1#32 0#32],
      size s ≤ 2 ^ s.cfg.addrW ∧ size s ≤ s.cfg.obufCap ∧ npix s ≠ 0)
      ∧ npix (image 0#32 5#32 0#32) = 0 ∧ npix (image 5#32 0#32 0#32) = 0 := by decide

theorem witness_ZeroPixelsCompleteAtOnce :
    (image 0#32 5#32 0#32).width = 0#32 ∧ (image 0#32 5#32 0#32).busy = false
      ∧ (image 5#32 0#32 0#32).height = 0#32 ∧ (image 5#32 0#32 0#32).busy = false := by decide

/-- The addresses just below and just above a quad. -/
theorem witness_QuadIsGreyAndOpaque : (3 < 4 ∨ 4 + 4 ≤ 3) ∧ (8 < 4 ∨ 4 + 4 ≤ 8) := by decide

/-- A first pixel, a last one, and one whose quad is the last four bytes of OBUF. -/
theorem witness_PixelStepDrawsAndWritesOneQuad :
    (∀ s ∈ [started 2#32 1#32 0#32, halfway, { started 8#32 8#32 0#32 with x := 7#32, y := 7#32, waddr := 252 }],
      s.busy = true ∧ s.waddr + 4 ≤ s.cfg.obufCap ∧ s.waddr + 4 < 2 ^ (s.cfg.addrW + 1))
      ∧ (Inv (started 2#32 1#32 0#32) ∧ (started 2#32 1#32 0#32).busy = true) ∧ Inv halfway ∧ halfway.busy = true :=
  ⟨by decide, ⟨started_inv, by decide⟩, halfway_inv, by decide⟩

theorem witness_LastPixelCompletesTheGenerate :
    (Inv halfway ∧ halfway.busy = true ∧ pixIndex halfway + 1 = npix halfway)
      ∧ (Inv lastPixel ∧ lastPixel.busy = true ∧ pixIndex lastPixel + 1 = npix lastPixel)
      ∧ npix (image 0#32 5#32 0#32) = 0 :=
  ⟨⟨halfway_inv, by decide, by decide⟩, ⟨lastPixel_inv, by decide, by decide⟩, by decide⟩

theorem witness_CompletedResultIsTheClosedForm :
    ∃ t, Inv halfway ∧ halfway.busy = true ∧ step halfway = .next t ∧ t.busy = false
      ∧ (nextTurn halfway).1 ≠ .reset :=
  ⟨_, halfway_inv, by decide, rfl, by decide, by decide⟩

theorem witness_GenerateTakesExactlyNpixSteps :
    ∃ t, Inv (image 1#32 1#32 0#32) ∧ (image 1#32 1#32 0#32).busy = false ∧ (image 1#32 1#32 0#32).schedule = []
      ∧ size (image 1#32 1#32 0#32) ≤ (image 1#32 1#32 0#32).cfg.obufCap ∧ npix (image 1#32 1#32 0#32) ≠ 0
      ∧ takeCommand 0x00000004#32 (image 1#32 1#32 0#32) = .next t :=
  ⟨_, image_inv, by decide, rfl, by decide, by decide, rfl⟩

/-- The host's turn comes first, then the engine's last one. -/
theorem witness_RunningGenerateCompletesUnderAnySchedule :
    ∃ t, Inv { halfway with schedule := [.host, .engine] } ∧ halfway.busy = true
      ∧ Turn.reset ∉ [Turn.host, .engine] ∧ npix halfway ≤ pixIndex halfway + [Turn.host, .engine].count .engine
      ∧ Host.Core.run Sys2Proof.core 2 { halfway with schedule := [.host, .engine] } = .next t :=
  ⟨_, { halfway_inv with busy := fun h => ⟨by decide, by decide, by decide, by decide, by decide, by decide, by decide⟩ },
    by decide, by decide, by decide, rfl⟩

theorem witness_GenerateResultIsIsolated :
    ∃ t t' u u', Inv (image 1#32 1#32 0#32) ∧ Inv other ∧ (image 1#32 1#32 0#32).busy = false ∧ other.busy = false
      ∧ (image 1#32 1#32 0#32).schedule = [] ∧ other.schedule = [] ∧ other.width = (image 1#32 1#32 0#32).width
      ∧ other.height = (image 1#32 1#32 0#32).height ∧ other.seed = (image 1#32 1#32 0#32).seed
      ∧ npix (image 1#32 1#32 0#32) ≠ 0 ∧ size (image 1#32 1#32 0#32) ≤ (image 1#32 1#32 0#32).cfg.obufCap
      ∧ size (image 1#32 1#32 0#32) ≤ other.cfg.obufCap
      ∧ takeCommand 0x00000004#32 (image 1#32 1#32 0#32) = .next t ∧ takeCommand 0x00000004#32 other = .next t'
      ∧ Host.Core.run Sys2Proof.core (npix (image 1#32 1#32 0#32)) t = .next u
      ∧ Host.Core.run Sys2Proof.core (npix (image 1#32 1#32 0#32)) t' = .next u' :=
  ⟨_, _, _, _, image_inv, other_inv, by decide, by decide, rfl, rfl, rfl, rfl, rfl, by decide, by decide, by decide,
    rfl, rfl, rfl, rfl⟩

theorem witness_IntensityIsInert :
    (∀ i ∈ [Instr.init, .nextWord, .nextByte, .generate], (nextOf (exec i idle)).isSome)
      ∧ (nextOf (engineTurn halfway)).isSome := by decide

theorem witness_ParameterWritesStoreTheirValue : idle.busy = false ∧ finished.busy = false := by decide

theorem witness_BusyWritesAreDropped :
    halfway.busy = true ∧ lastPixel.ovr = true ∧ ∃ t, step lastPixel = .next t :=
  ⟨by decide, by decide, _, rfl⟩

theorem witness_ReservedOffsetsReadZeroIgnoreWrites :
    ∀ off ∈ [0x30, 0xFC], 0x30 ≤ off ∧ off ≤ 0xFC ∧ off % 4 = 0 := by decide

theorem witness_ReadOnlyRegistersIgnoreWrites :
    ∀ off ∈ [0x04, 0x18, 0x1C, 0x20, 0x24, 0x28, 0x2C],
      off = 0x04 ∨ off = 0x18 ∨ off = 0x1C ∨ off = 0x20 ∨ off = 0x24 ∨ off = 0x28 ∨ off = 0x2C := by decide

/-- A written byte, and the last byte of OBUF, which is not written. -/
theorem witness_ByteReadsReturnTheLastByteWritten :
    0 < finished.cfg.obufCap ∧ finished.obuf.read? 0 = some 60#8
      ∧ 255 < finished.cfg.obufCap ∧ finished.obuf.read? 255 = none := by decide

/-- A quad, and the last word of OBUF, which is not written. -/
theorem witness_WordReadsAreLittleEndian :
    4 % 4 = 0 ∧ 4 + 4 ≤ finished.cfg.obufCap ∧ finished.obuf.read? (4 + 3) = some 255#8 ∧ quadAt finished.obuf 4 71#8
      ∧ 252 % 4 = 0 ∧ 252 + 4 ≤ finished.cfg.obufCap ∧ finished.obuf.read? (252 + 3) = none := by decide

/-- Each condition of R104 with the values on both sides of its boundary. -/
theorem witness_RefusedExactlyOutsideTheInterface :
    (0x100 ≤ 0x100 ∧ ¬ 0x100 ≤ 0xFC) ∧ (idle.cfg.obufCap ≤ 256 ∧ ¬ idle.cfg.obufCap ≤ 255)
      ∧ (idle.cfg.obufCap < 256 + 4 ∧ ¬ idle.cfg.obufCap < 252 + 4) ∧ (2 ≠ 1 ∧ 2 ≠ 4) ∧ (0 ≠ 1 ∧ 0 ≠ 4)
      ∧ (Access.regRead 0xFC 4).wf idle.cfg = true ∧ (Access.regRead 0x100 4).wf idle.cfg = false := by decide

theorem witness_HostStatementsDriveTheInterface :
    (∃ u v, performAccess (.regRead 0x1C 4) finished = .next (u, v))
      ∧ (∃ u, performAccess (.regWrite 0x00 4 2#32) finished.advance = .next (u, 0#32))
      ∧ (∃ u v, performAccess (.obufRead 255 1) finished.advance = .next (u, v))
      ∧ ∃ u v, performAccess (.obufRead 252 4) finished.advance = .next (u, v) :=
  ⟨⟨_, _, rfl⟩, ⟨_, rfl⟩, ⟨_, _, rfl⟩, ⟨_, _, rfl⟩⟩

/-- One case for each error code. -/
theorem witness_ErrorsAreAllOrNothing :
    (∃ t, takeCommand 0x104#32 finished = .next t ∧ t.err = true ∧ t.errcode = 0x01#8)
      ∧ (∃ t, takeCommand 4#32 { finished with width := 0x10000#32 } = .next t ∧ t.err = true ∧ t.errcode ≠ 0x01#8)
      ∧ ∃ t, takeCommand 4#32 { finished with width := 65#32 } = .next t ∧ t.err = true ∧ t.errcode ≠ 0x01#8 :=
  ⟨⟨_, rfl, by decide, by decide⟩, ⟨_, rfl, by decide, by decide⟩, ⟨_, rfl, by decide, by decide⟩⟩

/-- One case for each rank of the checks. -/
theorem witness_FirstCheckDecidesTheOutcome :
    halfway.busy = true ∧ idle.busy = false ∧ size (image 16385#32 1#32 0#32) > 2 ^ 16
      ∧ ¬ size (image 0x4000#32 1#32 0#32) > 2 ^ 16 ∧ size (image 0x4000#32 1#32 0#32) > 256
      ∧ ¬ size (image 8#32 8#32 0#32) > 256 := by decide

/-- A state that holds an error's record, while the host reads STATUS. -/
theorem witness_ErrorRecordStaysUntilTheNextTake :
    ∃ t, step (doing (.rd 0x04 .t0) { finished with status := 0x00000106#32 }) = .next t
      ∧ takenWord (doing (.rd 0x04 .t0) { finished with status := 0x00000106#32 }) = none
      ∧ (nextTurn (doing (.rd 0x04 .t0) { finished with status := 0x00000106#32 })).1 ≠ .reset :=
  ⟨_, rfl, by decide, by decide⟩

theorem witness_StatusAfterEveryTake :
    (∀ s ∈ [image 0#32 5#32 0#32, image 8#32 8#32 0#32, image 16385#32 1#32 0#32, image 65#32 1#32 0#32],
      s.busy = false ∧ s.status &&& 0xFFFF00F0#32 = 0#32)
      ∧ npix (image 0#32 5#32 0#32) = 0 ∧ size (image 8#32 8#32 0#32) ≤ 256
      ∧ size (image 16385#32 1#32 0#32) > 2 ^ 16 ∧ size (image 65#32 1#32 0#32) > 256
      ∧ (∃ t, Inv halfway ∧ halfway.busy = true ∧ engineTurn halfway = .next t ∧ t.busy = false)
      ∧ ∃ t, Inv lastPixel ∧ lastPixel.busy = true ∧ engineTurn lastPixel = .next t ∧ t.busy = false ∧ lastPixel.ovr :=
  ⟨by decide, by decide, by decide, by decide, by decide, ⟨_, halfway_inv, by decide, rfl, by decide⟩,
    ⟨_, lastPixel_inv, by decide, rfl, by decide, by decide⟩⟩

theorem witness_ResetAbandonsARunningGenerate : Inv halfway ∧ halfway.busy = true := ⟨halfway_inv, by decide⟩

theorem witness_EveryStepKeepsTheInvariant :
    (∃ t, Inv halfway ∧ step halfway = .next t) ∧ ∃ t, Inv finished ∧ step finished = .next t :=
  ⟨⟨_, halfway_inv, rfl⟩, ⟨_, finished_inv, rfl⟩⟩

theorem witness_OnlyProtocolViolationsStopAStep : Inv halfway ∧ Inv finished := ⟨halfway_inv, finished_inv⟩

theorem witness_OnlyPixelStepsWriteObuf :
    ∃ t, step halfway = .next t ∧ t.obuf.read? 7 ≠ halfway.obuf.read? 7 := ⟨_, rfl, by decide⟩

/-- STATE changes by a command, by a pixel step and by a reset. -/
theorem witness_OnlyCommandsAndPixelStepsWriteState :
    (∃ t, step (doing (.wr 0x00 2#32) idle) = .next t ∧ t.state ≠ idle.state)
      ∧ (∃ t, step halfway = .next t ∧ t.state ≠ halfway.state)
      ∧ ∃ t, step { halfway with schedule := [.reset] } = .next t ∧ t.state ≠ halfway.state :=
  ⟨⟨_, rfl, by decide⟩, ⟨_, rfl, by decide⟩, ⟨_, rfl, by decide⟩⟩

/-- Each parameter changes. -/
theorem witness_ParametersChangeOnlyByHostWrites :
    (∀ p ∈ [0x08, 0x0C, 0x10, 0x14], (nextTurn (doing (.wr p 3#32) idle)).1 ≠ .reset)
      ∧ (∃ t, step (doing (.wr 0x08 3#32) idle) = .next t ∧ t.width ≠ idle.width)
      ∧ (∃ t, step (doing (.wr 0x0C 3#32) idle) = .next t ∧ t.height ≠ idle.height)
      ∧ (∃ t, step (doing (.wr 0x14 3#32) idle) = .next t ∧ t.seed ≠ idle.seed)
      ∧ ∃ t, step (doing (.wr 0x10 3#32) idle) = .next t ∧ t.intensity ≠ idle.intensity :=
  ⟨by decide, ⟨_, rfl, by decide⟩, ⟨_, rfl, by decide⟩, ⟨_, rfl, by decide⟩, ⟨_, rfl, by decide⟩⟩

theorem witness_OnlyTheDrawCommandsWriteResult :
    (∃ t, step (doing (.wr 0x00 2#32) idle) = .next t ∧ t.result ≠ idle.result)
      ∧ ∃ t, step (doing (.wr 0x00 3#32) idle) = .next t ∧ t.result ≠ idle.result :=
  ⟨⟨_, rfl, by decide⟩, ⟨_, rfl, by decide⟩⟩

/-- LENGTH changes by a completion, by a taken GENERATE and by a reset; the iterator by a pixel step. -/
theorem witness_OnlyGenerateWritesLengthAndIterator :
    (∃ t, step halfway = .next t ∧ t.length ≠ halfway.length ∧ t.waddr ≠ halfway.waddr)
      ∧ (∃ t, step (doing (.wr 0x00 4#32) finished) = .next t ∧ t.length ≠ finished.length ∧ t.y ≠ finished.y)
      ∧ ∃ t, step { finished with schedule := [.reset] } = .next t ∧ t.length ≠ finished.length :=
  ⟨⟨_, rfl, by decide, by decide⟩, ⟨_, rfl, by decide, by decide⟩, ⟨_, rfl, by decide⟩⟩

/-- A result stands while the host runs NEXT_BYTE. -/
theorem witness_ResultStaysUntilTheNextGenerate :
    ∃ t, step (doing (.wr 0x00 3#32) finished) = .next t ∧ (doing (.wr 0x00 3#32) finished).busy = false
      ∧ takenCommand (doing (.wr 0x00 3#32) finished) ≠ some .generate
      ∧ (nextTurn (doing (.wr 0x00 3#32) finished)).1 ≠ .reset := ⟨_, rfl, by decide, by decide, by decide⟩

/-- The host reads a never-written byte while a GENERATE runs, and polls STATUS while none does. -/
theorem witness_BlockChangesOnlyByWriteEngineOrReset :
    (∃ t, step { doing (.rdb 255 .t0) halfway with schedule := [.host] } = .next t
      ∧ nextRegWrite { doing (.rdb 255 .t0) halfway with schedule := [.host] } = none
      ∧ (nextTurn { doing (.rdb 255 .t0) halfway with schedule := [.host] }).1 = .host)
      ∧ ∃ t, step (doing (.rd 0x04 .t0) finished) = .next t ∧ nextRegWrite (doing (.rd 0x04 .t0) finished) = none
        ∧ (nextTurn (doing (.rd 0x04 .t0) finished)).1 = .host ∧ finished.busy = false :=
  ⟨⟨_, rfl, by decide, by decide⟩, ⟨_, rfl, by decide, by decide, by decide⟩⟩

theorem witness_ParametersOfTheBlockAreFixed : ∃ t, step halfway = .next t := ⟨_, rfl⟩

end Sys2Proof.Tests
end

section
/-! The reserved offsets of the register window (10_state.md R31). -/

namespace Sys2Proof.Machine

/-- Every register lies below 0x30, where the reserved offsets begin (R16). -/
theorem Reg.offset_lt (r : Reg) : r.offset < 0x30 := by cases r <;> decide

/-- No register stands at or above 0x30 (R16, R31). -/
theorem Reg.ofOffset_eq_none {off : Nat} (h : 0x30 ≤ off) : Reg.ofOffset off = none := by
  refine Option.eq_none_iff_forall_ne_some.2 fun r hr => ?_
  have hlt := Reg.offset_lt r
  rw [← Reg.ofOffset_eq_some hr] at hlt
  omega

/-- A read where no register stands returns 0 (R31). -/
theorem readOffset_of_ofOffset_eq_none {off : Nat} (h : Reg.ofOffset off = none) (s : State) :
    readOffset off s = 0#32 := by
  simp only [readOffset, h]

/-- A write where no register stands is ignored (R31, R101). -/
theorem hostWrite_of_ofOffset_eq_none {off : Nat} (h : Reg.ofOffset off = none) (v : Word) (s : State) :
    hostWrite off v s = .next s := by
  simp only [hostWrite, h]

/-- Settles O33: no register stands at a reserved offset, and the access passes the check of R104. -/
theorem reservedOffsetsReadZeroIgnoreWrites : Obligations.ReservedOffsetsReadZeroIgnoreWrites := by
  intro s off v hlo hhi haligned
  have hnone : Reg.ofOffset off = none := Reg.ofOffset_eq_none hlo
  have hwindow : off < 0x100 := by omega
  constructor
  · rw [performAccess_read haligned hwindow, readOffset_of_ofOffset_eq_none hnone]
  · exact performAccess_write haligned hwindow (hostWrite_of_ofOffset_eq_none hnone v s)

end Sys2Proof.Machine
end

section
/-! The command words (30_encoding.md R57, R58, R61): the decoder by the two fields, and what the take of an illegal word
leaves (42_host_interface.md R99, 60_exceptions.md R108). -/

namespace Sys2Proof

/-- A word is its two fields, RSV above OP (R57). -/
theorem fieldRsv_append_fieldOp (w : Word) : fieldRsv w ++ fieldOp w = w := by
  rw [fieldRsv, fieldOp, BitVec.extractLsb'_append_extractLsb'_eq_extractLsb' (by decide)]
  exact BitVec.extractLsb'_eq_self

/-- A word whose RSV is 0 and whose OP is a command's is that command's word. -/
theorem eq_encode_of_fields {w : Word} {i : Instr} (hrsv : fieldRsv w = 0#24) (hop : fieldOp w = opOf i) :
    w = encode i := by
  rw [← fieldRsv_append_fieldOp w, hrsv, hop, encode]

/-- The decoder accepts only RSV = 0 with the OP of the command it gives (R58). -/
theorem fields_of_decode_ok {w : Word} {i : Instr} (h : decode w = .ok i) :
    fieldRsv w = 0#24 ∧ fieldOp w = opOf i := by
  unfold decode at h
  split_ifs at h with hrsv h1 h2 h3 h4 <;> injection h with h <;> subst h
  · exact ⟨not_not.1 hrsv, h1⟩
  · exact ⟨not_not.1 hrsv, h2⟩
  · exact ⟨not_not.1 hrsv, h3⟩
  · exact ⟨not_not.1 hrsv, h4⟩

/-- Decoding a command's word gives the command back (R58, R59). -/
theorem decode_encode (i : Instr) : decode (encode i) = .ok i := by
  obtain ⟨-, -, hdecode, -⟩ : Laws.RoundTrip.Statement i := by
    cases i
    · exact Laws.RoundTrip.init
    · exact Laws.RoundTrip.nextWord
    · exact Laws.RoundTrip.nextByte
    · exact Laws.RoundTrip.generate
  exact hdecode

/-- The legal words are exactly the encodings, each with its own meaning (R58). -/
theorem decode_eq_ok_iff {w : Word} {i : Instr} : decode w = .ok i ↔ w = encode i := by
  constructor
  · intro h
    obtain ⟨hrsv, hop⟩ := fields_of_decode_ok h
    exact eq_encode_of_fields hrsv hop
  · rintro rfl
    exact decode_encode i

/-- The illegal words are exactly those that encode no command (R58). -/
theorem decode_error_iff {w : Word} : (∃ e, decode w = .error e) ↔ ∀ i, w ≠ encode i := by
  cases hd : decode w with
  | ok i => simpa using ⟨i, decode_eq_ok_iff.1 hd⟩
  | error e =>
    refine ⟨fun _ i hi => ?_, fun _ => ⟨e, rfl⟩⟩
    rw [decode_eq_ok_iff.2 hi] at hd
    cases hd

/-- A word with RSV != 0, or with OP outside 0x01 .. 0x04, is illegal (R61). -/
theorem decode_error_of_fields {w : Word}
    (h : fieldRsv w ≠ 0#24 ∨ (fieldOp w ≠ 0x01#8 ∧ fieldOp w ≠ 0x02#8 ∧ fieldOp w ≠ 0x03#8 ∧ fieldOp w ≠ 0x04#8)) :
    ∃ e, decode w = .error e := by
  cases hd : decode w with
  | error e => exact ⟨e, rfl⟩
  | ok i =>
    obtain ⟨hrsv, hop⟩ := fields_of_decode_ok hd
    obtain ⟨h1, h2, h3, h4⟩ := h.resolve_left (not_not.2 hrsv)
    cases i
    · exact absurd hop h1
    · exact absurd hop h2
    · exact absurd hop h3
    · exact absurd hop h4

end Sys2Proof

namespace Sys2Proof.Machine

/-- The flags the report of an illegal word leaves: the take clears OVR, and the report keeps it (R99, R108). -/
theorem flags_reportIllegal (s : State) :
    (raiseCmdError .illegalCmd (clearRecord s)).flags = (s.busy, true, true, false, 0x01#8) := by
  have hcleared := flags_clearRecord s
  simp only [State.flags, Prod.mk.injEq] at hcleared
  obtain ⟨hbusy, -, -, hovr, -⟩ := hcleared
  rw [flags_raiseCmdError, hbusy, hovr, CmdError.code]

/-- The take of an illegal word answers, changes STATUS alone and leaves the record of ILLEGAL_CMD (R61, R108). -/
theorem takeCommand_illegal {w : Word} (h : ∃ e, decode w = .error e) (s : State) :
    ∃ t, takeCommand w s = .next t ∧ t = { s with status := t.status }
      ∧ t.flags = (s.busy, true, true, false, 0x01#8) := by
  obtain ⟨e, he⟩ := h
  exact ⟨_, takeCommand_error he s, rfl, flags_reportIllegal s⟩

/-- Settles O2: a word is its two fields, so the decoder inverts the encoder and rejects what encodes no command; the take
of an illegal word is the report of ILLEGAL_CMD. -/
theorem exactlyFourWordsAreLegal : Obligations.ExactlyFourWordsAreLegal := by
  refine ⟨fun w i => decode_eq_ok_iff, rfl, rfl, rfl, rfl, fun w => ?_, fun w s hillegal => ?_⟩
  · rw [decode_error_iff]
    constructor
    · intro h
      exact ⟨h .init, h .nextWord, h .nextByte, h .generate⟩
    · rintro ⟨h1, h2, h3, h4⟩ (_ | _ | _ | _)
      · exact h1
      · exact h2
      · exact h3
      · exact h4
  · obtain ⟨t, htake, -, hflags⟩ := takeCommand_illegal hillegal s
    simp only [State.flags, Prod.mk.injEq] at hflags
    obtain ⟨-, hdone, herr, -, hcode⟩ := hflags
    exact ⟨t, htake, hdone, herr, hcode⟩

/-- Settles O3: the fields make the word illegal, and with BUSY = 0 the write is the take that reports it. -/
theorem illegalWordsChangeOnlyStatus : Obligations.IllegalWordsChangeOnlyStatus := by
  intro w s hfields hbusy
  obtain ⟨t, htake, hframe, hflags⟩ := takeCommand_illegal (decode_error_of_fields hfields) s
  have hwrite : hostWrite 0x00 w s = .next t := by
    rw [hostWrite_cmd, hbusy]
    exact htake
  rw [hbusy] at hflags
  exact ⟨t, performAccess_write (by decide) (by decide) hwrite, hframe, hflags⟩

end Sys2Proof.Machine
end

section
/-! The LCG as arithmetic (40_lcg_engine.md R70, R71, R76 to R80): the inverse of `lcg_step`, the closed form of its
iterates, and their periods. -/

namespace Sys2Proof.Machine

/-! ### One step -/

theorem lcgA_mul_inverse : lcgA * 4276115653#32 = 1#32 := by decide

/-- The map of R76 undoes `lcg_step` on the right. -/
theorem lcgStep_inverse (t : Word) : lcgStep ((t - 1013904223#32) * 4276115653#32) = t := by
  calc lcgC + lcgA * ((t - lcgC) * 4276115653#32)
      = lcgC + lcgA * 4276115653#32 * (t - lcgC) := by rw [BitVec.mul_comm (t - lcgC), BitVec.mul_assoc]
    _ = lcgC + (t - lcgC) := by rw [lcgA_mul_inverse, BitVec.one_mul]
    _ = t := by rw [BitVec.add_comm, BitVec.sub_add_cancel]

/-- The map of R76 undoes `lcg_step` on the left. -/
theorem inverse_lcgStep (s : Word) : (lcgStep s - 1013904223#32) * 4276115653#32 = s := by
  calc (lcgC + lcgA * s - lcgC) * 4276115653#32
      = lcgA * 4276115653#32 * s := by
        rw [BitVec.add_comm, BitVec.add_sub_cancel, BitVec.mul_assoc, BitVec.mul_comm s, ← BitVec.mul_assoc]
    _ = s := by rw [lcgA_mul_inverse, BitVec.one_mul]

theorem lcgStep_injective {s s' : Word} (h : lcgStep s = lcgStep s') : s = s' := by
  rw [← inverse_lcgStep s, h, inverse_lcgStep]

/-- Distinct states stay distinct at every step (R76). -/
theorem lcgIter_injective (k : Nat) {s s' : Word} (h : lcgIter k s = lcgIter k s') : s = s' := by
  induction k with
  | zero => exact h
  | succ k ih => exact ih (lcgStep_injective h)

/-- The wrap loses nothing of the low `k` bits, since `2 ^ k` divides `2 ^ 32`. -/
theorem lcgStep_modEq {k : Nat} (hk : k ≤ 32) (s : Word) :
    (lcgStep s).toNat ≡ s.toNat * 1664525 + 1013904223 [MOD 2 ^ k] := by
  rw [lcgStep_toNat]
  exact (Nat.mod_modEq _ _).of_dvd (pow_dvd_pow 2 hk)

/-- Multiplier and increment are odd, so the step flips the parity. -/
theorem lcgStep_mod_two (s : Word) : (lcgStep s).toNat % 2 = (s.toNat + 1) % 2 := by
  have hmod : (lcgStep s).toNat % 2 = (s.toNat * 1664525 + 1013904223) % 2 := lcgStep_modEq (k := 1) (by decide) s
  refine hmod.trans ?_
  omega

/-- Bit 0 alternates (R78). -/
theorem lcgStep_bit_zero (s : Word) : (lcgStep s).getLsbD 0 = !s.getLsbD 0 := by
  rw [BitVec.getLsbD, BitVec.getLsbD, Nat.testBit_zero, Nat.testBit_zero, lcgStep_mod_two, ← decide_not]
  exact decide_eq_decide.2 (Nat.succ_mod_two_eq_one_iff.trans Nat.mod_two_not_eq_one.symm)

/-- No state is a fixed point: its bit 0 would not alternate (R74, R78). -/
theorem lcgStep_ne_self (s : Word) : lcgStep s ≠ s := by
  intro h
  have hbit := lcgStep_bit_zero s
  rw [h] at hbit
  exact Bool.not_ne_self _ hbit.symm

/-! ### The iterates -/

/-- The closed form of `lcg_step^j` (R80): each step's wrap may wait until the end. -/
theorem lcgIter_toNat (j : Nat) (s : Word) :
    (lcgIter j s).toNat
      = (1664525 ^ j * s.toNat + 1013904223 * ∑ e ∈ Finset.range j, 1664525 ^ e) % 2 ^ 32 := by
  induction j with
  | zero => simpa using (Nat.mod_eq_of_lt s.isLt).symm
  | succ j ih =>
    rw [lcgIter_succ, lcgStep_toNat, ih, geom_sum_succ]
    change Nat.ModEq _ _ _
    calc (1664525 ^ j * s.toNat + 1013904223 * ∑ e ∈ Finset.range j, 1664525 ^ e) % 2 ^ 32 * 1664525 + 1013904223
        ≡ (1664525 ^ j * s.toNat + 1013904223 * ∑ e ∈ Finset.range j, 1664525 ^ e) * 1664525 + 1013904223
          [MOD 2 ^ 32] := ((Nat.mod_modEq _ _).mul_right _).add_right _
      _ = 1664525 ^ (j + 1) * s.toNat + 1013904223 * (1664525 * ∑ e ∈ Finset.range j, 1664525 ^ e + 1) := by ring

/-- Lifting the exponent: for a multiplier `m + 1` with `4 ∣ m`, the geometric sum of `n` terms has the
power of 2 of `n`. -/
theorem two_pow_dvd_geom_sum_iff {m : Nat} (hm : m ≠ 0) (h4 : 4 ∣ m) (k n : Nat) :
    2 ^ k ∣ ∑ e ∈ Finset.range n, (m + 1) ^ e ↔ 2 ^ k ∣ n := by
  have hfin : emultiplicity (2 : ℤ) m ≠ ⊤ := by
    rw [← finiteMultiplicity_iff_emultiplicity_ne_top, Int.finiteMultiplicity_iff]
    exact ⟨by decide, by exact_mod_cast hm⟩
  have hlift := Int.two_pow_sub_pow' (x := m + 1) (y := 1) n
    (by rw [add_sub_cancel_right]; exact_mod_cast h4) (by omega)
  rw [one_pow, ← mul_geom_sum, emultiplicity_mul Int.prime_two, add_sub_cancel_right] at hlift
  have hsame := ENat.add_right_injective_of_ne_top hfin hlift
  exact_mod_cast emultiplicity_eq_emultiplicity_iff.1 hsame k

/-- How far `n` steps move a state: the geometric sum times an odd number. -/
theorem lcgIter_modEq {k : Nat} (hk : k ≤ 32) (n : Nat) (s : Word) :
    (lcgIter n s).toNat
      ≡ s.toNat + (∑ e ∈ Finset.range n, 1664525 ^ e) * (1664524 * s.toNat + 1013904223) [MOD 2 ^ k] := by
  have hpow : 1664525 ^ n = (∑ e ∈ Finset.range n, 1664525 ^ e) * 1664524 + 1 := (geom_sum_mul_add 1664524 n).symm
  have hdist : 1664525 ^ n * s.toNat + 1013904223 * ∑ e ∈ Finset.range n, 1664525 ^ e
      = s.toNat + (∑ e ∈ Finset.range n, 1664525 ^ e) * (1664524 * s.toNat + 1013904223) := by
    rw [hpow]
    ring
  rw [lcgIter_toNat, hdist]
  exact (Nat.mod_modEq _ _).of_dvd (pow_dvd_pow 2 hk)

/-- The low `k` bits return exactly at the multiples of `2 ^ k` (R78). -/
theorem lcgIter_modEq_self_iff {k : Nat} (hk : k ≤ 32) (n : Nat) (s : Word) :
    (lcgIter n s).toNat ≡ s.toNat [MOD 2 ^ k] ↔ 2 ^ k ∣ n := by
  have hodd : Nat.Coprime (2 ^ k) (1664524 * s.toNat + 1013904223) := by
    refine Nat.Coprime.pow_left k (Nat.coprime_two_left.2 ?_)
    rw [Nat.odd_iff]
    omega
  have hmove := lcgIter_modEq hk n s
  calc (lcgIter n s).toNat ≡ s.toNat [MOD 2 ^ k]
      ↔ s.toNat + (∑ e ∈ Finset.range n, 1664525 ^ e) * (1664524 * s.toNat + 1013904223) ≡ s.toNat [MOD 2 ^ k] :=
        ⟨hmove.symm.trans, hmove.trans⟩
    _ ↔ 2 ^ k ∣ (∑ e ∈ Finset.range n, 1664525 ^ e) * (1664524 * s.toNat + 1013904223) := Nat.add_modEq_left_iff
    _ ↔ 2 ^ k ∣ ∑ e ∈ Finset.range n, 1664525 ^ e := hodd.dvd_mul_right
    _ ↔ 2 ^ k ∣ n := two_pow_dvd_geom_sum_iff (m := 1664524) (by decide) (by decide) k n

/-- A state returns exactly at the multiples of `2 ^ 32` (R77). -/
theorem lcgIter_eq_self_iff (k : Nat) (s : Word) : lcgIter k s = s ↔ 2 ^ 32 ∣ k := by
  rw [← lcgIter_modEq_self_iff (Nat.le_refl 32) k s]
  constructor
  · intro h
    rw [h]
  · intro h
    exact BitVec.eq_of_toNat_eq (Nat.ModEq.eq_of_lt_of_lt h (BitVec.isLt _) s.isLt)

/-- Two iterates of one state agree exactly when their counts agree mod `2 ^ 32`. -/
theorem lcgIter_eq_iff (a b : Nat) (s : Word) : lcgIter a s = lcgIter b s ↔ a ≡ b [MOD 2 ^ 32] := by
  wlog hab : a ≤ b generalizing a b
  · rw [eq_comm, this b a (Nat.le_of_not_le hab), Nat.ModEq.comm]
  · obtain ⟨d, rfl⟩ := Nat.exists_eq_add_of_le hab
    rw [Nat.left_modEq_add_iff, ← lcgIter_eq_self_iff d s, lcgIter_add]
    exact ⟨fun h => (lcgIter_injective a h).symm, fun h => by rw [h]⟩

/-- Every value is met within the next `2 ^ 32` states: counted by words, the iterates are an injection of the words into
themselves (R77). -/
theorem exists_lcgIter_eq (s v : Word) : ∃ k, 1 ≤ k ∧ k ≤ 2 ^ 32 ∧ lcgIter k s = v := by
  have hinj : Function.Injective fun j : Word => lcgIter (j.toNat + 1) s := by
    intro i j hij
    have hmod := Nat.ModEq.add_right_cancel' 1 ((lcgIter_eq_iff _ _ s).1 hij)
    exact BitVec.eq_of_toNat_eq (Nat.ModEq.eq_of_lt_of_lt hmod i.isLt j.isLt)
  obtain ⟨j, hj⟩ := Finite.surjective_of_injective hinj v
  exact ⟨j.toNat + 1, by omega, j.isLt, hj⟩

/-- Settles O14: the multiplier is a unit, so the step has the inverse of R76, and so has every iterate. -/
theorem lcgStepIsABijection : Obligations.LcgStepIsABijection :=
  ⟨lcgA_mul_inverse, rfl, lcgStep_inverse, inverse_lcgStep, fun k _ _ => lcgIter_injective k⟩

/-- Settles O15: the returns are those of all 32 bits, and the iterates met between two returns are all values. -/
theorem lcgHasFullPeriod : Obligations.LcgHasFullPeriod := by
  refine ⟨fun s k => lcgIter_eq_self_iff k s, fun s v => ?_, by decide, by decide⟩
  obtain ⟨k, hpos, hle, hk⟩ := exists_lcgIter_eq s v
  refine ⟨k, ⟨hpos, hle, hk⟩, ?_⟩
  rintro k' ⟨hpos', hle', hk'⟩
  have hmod : k' % 2 ^ 32 = k % 2 ^ 32 := (lcgIter_eq_iff k' k s).1 (hk'.trans hk.symm)
  omega

/-- Settles O16: the step commutes with taking the low bits, whose period is that of the geometric sum. -/
theorem lowBitsHaveShortPeriods : Obligations.LowBitsHaveShortPeriods := by
  refine ⟨fun k s s' _ hk h => ?_, fun k n s _ hk => lcgIter_modEq_self_iff hk n s, lcgStep_bit_zero, lcgStep_ne_self⟩
  exact ((lcgStep_modEq hk s).trans ((Nat.ModEq.mul_right _ h).add_right _)).trans (lcgStep_modEq hk s').symm

/-- Settles O8: the model's words, read as numbers; reducing after the product changes nothing. -/
theorem lcgStepIsTheWrappedMultiplyAdd : Obligations.LcgStepIsTheWrappedMultiplyAdd := by
  refine ⟨rfl, rfl, fun s => ⟨lcgStep_toNat s, ?_, ?_⟩⟩
  · have hword := s.isLt
    omega
  · rw [lcgStep_toNat, Nat.mod_add_mod]

end Sys2Proof.Machine
end

section
/-! The three commands of the LCG engine (40_lcg_engine.md R71 to R75, R80): each take, what a list of takes leaves, and
what the host reads after one. -/

namespace Sys2Proof.Machine

/-! ### The sample (R71) -/

theorem getLsbD_sample (s : Word) {k : Nat} (hk : k < 8) : (sample s).getLsbD k = s.getLsbD (24 + k) := by
  rw [sample, BitVec.getLsbD_extractLsb', decide_eq_true hk, Bool.true_and]

/-- The arithmetic shift differs from the logical one only above bit 7 (R71; 90_conflicts.md C1). -/
theorem setWidth_sshiftRight_eq_sample (s : Word) : BitVec.setWidth 8 (s.sshiftRight 24) = sample s := by
  refine BitVec.eq_of_getLsbD_eq fun k hk => ?_
  have hword : ¬ 32 ≤ k := by omega
  have hlow : 24 + k < 32 := by omega
  rw [getLsbD_sample s hk]
  simp [BitVec.getLsbD_sshiftRight, hk, hword, hlow]

/-! ### STATUS after a completion -/

/-- A read of STATUS is fixed by the flags. -/
theorem statusRead_of_flags {s : State} {b d e o : Bool} {c : Byte} (h : s.flags = (b, d, e, o, c)) :
    statusRead s.status
      = 0#16 ++ c ++ 0#4 ++ BitVec.ofBool o ++ BitVec.ofBool e ++ BitVec.ofBool d ++ BitVec.ofBool b := by
  simp only [State.flags, Prod.mk.injEq] at h
  obtain ⟨rfl, rfl, rfl, rfl, rfl⟩ := h
  rfl

/-- With the reserved bits 0, STATUS is what a read of it returns. -/
theorem statusRead_eq_self {w : Word} (h : w &&& 0xFFFF00F0#32 = 0#32) : statusRead w = w := by
  calc statusRead w = w &&& 0x0000FF0F#32 ||| w &&& 0xFFFF00F0#32 := by rw [statusRead_eq, h, BitVec.or_zero]
    _ = w &&& (0x0000FF0F#32 ||| 0xFFFF00F0#32) := BitVec.and_or_distrib_left.symm
    _ = w := BitVec.and_allOnes

/-! ### A take -/

/-- The state an LCG command leaves in its take, with `v` in STATE and `r` in RESULT: the record cleared (R99),
DONE set (R72). -/
def lcgTaken (s : State) (v r : Word) : State := completeOk (((clearRecord s).setState v).setResult r)

@[simp] theorem lcgTaken_state (s : State) (v r : Word) : (lcgTaken s v r).state = v := rfl
@[simp] theorem lcgTaken_result (s : State) (v r : Word) : (lcgTaken s v r).result = r := rfl
@[simp] theorem lcgTaken_seed (s : State) (v r : Word) : (lcgTaken s v r).seed = s.seed := rfl

/-- DONE alone is set, since the record has been cleared (R72, R99). -/
theorem flags_lcgTaken (s : State) (v r : Word) : (lcgTaken s v r).flags = (s.busy, true, false, false, 0x00#8) := by
  have hcleared : (((clearRecord s).setState v).setResult r).flags = (s.busy, false, false, false, 0x00#8) :=
    flags_clearRecord s
  simp only [State.flags, Prod.mk.injEq] at hcleared
  obtain ⟨hbusy, -, herr, hovr, hcode⟩ := hcleared
  rw [lcgTaken, flags_completeOk, hbusy, herr, hovr, hcode]

/-- The reserved bits of STATUS are left. -/
theorem reserved_lcgTaken (s : State) (v r : Word) :
    (lcgTaken s v r).status &&& 0xFFFF00F0#32 = s.status &&& 0xFFFF00F0#32 := by
  simp [lcgTaken, completeOk, clearRecord]

/-- A host read of STATUS finds DONE alone set. -/
theorem statusRead_lcgTaken {s : State} (hbusy : s.busy = false) (v r : Word) :
    statusRead (lcgTaken s v r).status = 0x00000002#32 := by
  rw [statusRead_of_flags (flags_lcgTaken s v r), hbusy]
  decide

/-- The word NEXT_WORD or NEXT_BYTE puts in RESULT from the new state (R74, R75). -/
def drawResult (i : Instr) (v : Word) : Word := if i = .nextWord then v else BitVec.setWidth 32 (sample v)

/-- The take of INIT: STATE is SEED, and RESULT is left (R73). -/
theorem takeCommand_init (s : State) : takeCommand (encode .init) s = .next (lcgTaken s s.seed s.result) :=
  takeCommand_ok (decode_encode .init) s

/-- The take of NEXT_WORD or NEXT_BYTE: one step of the LCG, RESULT from the new state (R74, R75). -/
theorem takeCommand_draw {i : Instr} (hi : i = .nextWord ∨ i = .nextByte) (s : State) :
    takeCommand (encode i) s = .next (lcgTaken s (lcgStep s.state) (drawResult i (lcgStep s.state))) := by
  rw [takeCommand_ok (decode_encode i)]
  rcases hi with rfl | rfl
  · rfl
  · rfl

/-- The take of any of the three. -/
theorem takeCommand_lcg {i : Instr} (hi : i = .init ∨ i = .nextWord ∨ i = .nextByte) (s : State) :
    ∃ v r, takeCommand (encode i) s = .next (lcgTaken s v r) := by
  rcases hi with rfl | hdraw
  · exact ⟨_, _, takeCommand_init s⟩
  · exact ⟨_, _, takeCommand_draw hdraw s⟩

/-! ### Lists of takes -/

@[simp] theorem takeAll_nil (s : State) : takeAll [] s = .next s := rfl

/-- The first take answers, and the rest follow from its state. -/
theorem takeAll_cons {i : Instr} {s t : State} (h : takeCommand (encode i) s = .next t) (l : List Instr) :
    takeAll (i :: l) s = takeAll l t := by
  rw [takeAll, h, onNext]

theorem takeAll_append {l : List Instr} {s t : State} (h : takeAll l s = .next t) (l' : List Instr) :
    takeAll (l ++ l') s = takeAll l' t := by
  induction l generalizing s with
  | nil =>
    injection h with h
    rw [List.nil_append, h]
  | cons i l ih =>
    obtain ⟨u, hu⟩ := takeCommand_next (encode i) s
    rw [takeAll_cons hu] at h
    rw [List.cons_append, takeAll_cons hu, ih h]

/-- Draws alone: each advances STATE once, whichever it is (R80). -/
theorem takeAll_draws {l : List Instr} (hl : ∀ i ∈ l, i = .nextWord ∨ i = .nextByte) (s : State) :
    ∃ t, takeAll l s = .next t ∧ t.state = lcgIter l.length s.state := by
  induction l generalizing s with
  | nil => exact ⟨s, rfl, rfl⟩
  | cons i l ih =>
    obtain ⟨hi, hrest⟩ := List.forall_mem_cons.1 hl
    have htake := takeCommand_draw hi s
    obtain ⟨t, ht, hstate⟩ := ih hrest _
    refine ⟨t, (takeAll_cons htake l).trans ht, hstate.trans ?_⟩
    exact (lcgIter_add l.length 1 s.state).symm

/-- After INIT, `k` draws leave `lcg_step^k(SEED)` (R80). -/
theorem takeAll_init_draws {l : List Instr} (hl : ∀ i ∈ l, i = .nextWord ∨ i = .nextByte) (s : State) :
    ∃ t, takeAll (.init :: l) s = .next t ∧ t.state = lcgIter l.length s.seed := by
  obtain ⟨t, ht, hstate⟩ := takeAll_draws hl (lcgTaken s s.seed s.result)
  exact ⟨t, (takeAll_cons (takeCommand_init s) l).trans ht, hstate⟩

/-- The last of `k + 1` draws after INIT leaves `lcg_step^(k+1)(SEED)` and writes RESULT from it (R80). -/
theorem takeAll_init_draws_last {l : List Instr} (hl : ∀ i ∈ l, i = .nextWord ∨ i = .nextByte) {last : Instr}
    (hlast : last = .nextWord ∨ last = .nextByte) (s : State) :
    ∃ t, takeAll (.init :: (l ++ [last])) s = .next t ∧ t.state = lcgIter (l.length + 1) s.seed
      ∧ t.result = drawResult last (lcgIter (l.length + 1) s.seed) := by
  obtain ⟨u, hu, hstate⟩ := takeAll_init_draws hl s
  have htake := takeCommand_draw hlast u
  rw [hstate, ← lcgIter_succ] at htake
  refine ⟨lcgTaken u _ _, ?_, lcgTaken_state .., lcgTaken_result ..⟩
  rw [← List.cons_append, takeAll_append hu, takeAll_cons htake, takeAll_nil]

/-- Settles O17: the takes of a list in order, and the iterates in closed form. -/
theorem sequenceAfterInit : Obligations.SequenceAfterInit := by
  refine ⟨fun s l hl => takeAll_init_draws hl s, fun s l last hl hlast => ?_, fun j s => lcgIter_toNat j s⟩
  obtain ⟨t, ht, -, hresult⟩ := takeAll_init_draws_last hl hlast s
  exact ⟨t, ht, hresult⟩

/-- The first draw after INIT with SEED = 0 returns the increment's value (R73 to R75). -/
theorem takeAll_init_draw_of_seed_zero {i : Instr} (hi : i = .nextWord ∨ i = .nextByte) {s : State}
    (hseed : s.seed = 0#32) :
    ∃ t, takeAll [.init, i] s = .next t ∧ t.state = 0x3C6EF35F#32 ∧ t.result = drawResult i 0x3C6EF35F#32 := by
  have hfirst : lcgIter 1 s.seed = 0x3C6EF35F#32 := by rw [hseed]; decide
  obtain ⟨t, ht, hstate, hresult⟩ := takeAll_init_draws_last (l := []) nofun hi s
  rw [List.length_nil, Nat.zero_add, hfirst] at hstate hresult
  exact ⟨t, ht, hstate, hresult⟩

/-- Settles O9: the sample as a field, a quotient and a shift, and NEXT_BYTE's RESULT. -/
theorem sampleIsTheTopByteOfTheNewState : Obligations.SampleIsTheTopByteOfTheNewState :=
  ⟨sample_toNat, fun s _ hk => getLsbD_sample s hk, setWidth_sshiftRight_eq_sample, fun _ => ⟨_, rfl, rfl⟩⟩

/-- Settles O10: INIT stores SEED and completes; after the take of the example DONE is the only bit of STATUS. -/
theorem initSeedsTheState : Obligations.InitSeedsTheState := by
  refine ⟨fun s => ⟨_, rfl, rfl, flags_completeOk _⟩, rfl, fun s hseed => ?_, fun s => ?_,
    fun s hseed hbusy hres => ?_⟩
  · obtain ⟨t, ht, -, hresult⟩ := takeAll_init_draw_of_seed_zero (.inl rfl) hseed
    exact ⟨t, ht, hresult⟩
  · refine ⟨lcgTaken (lcgTaken s s.seed s.result) s.seed s.result, ?_, lcgTaken_state ..⟩
    rw [takeAll_cons (takeCommand_init s), takeAll_cons (takeCommand_init _), takeAll_nil, lcgTaken_seed, lcgTaken_result]
  · refine ⟨_, takeCommand_init s, hseed, ?_⟩
    have hreserved := (reserved_lcgTaken s s.seed s.result).trans hres
    rw [← statusRead_eq_self hreserved, statusRead_lcgTaken hbusy]

/-- Settles O11: NEXT_WORD stores the new state twice and completes. -/
theorem nextWordReturnsTheNewState : Obligations.NextWordReturnsTheNewState := by
  refine ⟨fun s => ⟨_, rfl, rfl, flags_completeOk _⟩, rfl, by decide, by decide, lcgStep_ne_self,
    fun s hseed => ?_⟩
  obtain ⟨t, ht, hstate, hresult⟩ := takeAll_init_draw_of_seed_zero (.inl rfl) hseed
  exact ⟨t, ht, hresult, hstate⟩

/-- Settles O12: NEXT_BYTE stores the new state and its sample, which a wider register holds unchanged. -/
theorem nextByteReturnsTheTopByte : Obligations.NextByteReturnsTheTopByte := by
  refine ⟨fun s => ⟨_, rfl, rfl, flags_completeOk _, ?_⟩, rfl, fun s hseed => ?_⟩
  · have hbyte : (BitVec.setWidth 32 (sample (lcgStep s.state))).toNat = (sample (lcgStep s.state)).toNat :=
      BitVec.toNat_setWidth_of_le (by decide)
    exact ⟨hbyte.trans (sample_toNat _), hbyte.trans_le (Nat.le_of_lt_succ (sample _).isLt)⟩
  · obtain ⟨t, ht, hstate, hresult⟩ := takeAll_init_draw_of_seed_zero (.inr rfl) hseed
    exact ⟨t, ht, hresult, hstate⟩

/-- Settles O13: the take answers with the completion, and BUSY = 0 leaves the engine no step. -/
theorem lcgCommandsFinishInTheirTake : Obligations.LcgCommandsFinishInTheirTake := by
  intro i s hi hbusy
  obtain ⟨v, r, htake⟩ := takeCommand_lcg hi s
  have hwrite : hostWrite 0x00 (encode i) s = .next (lcgTaken s v r) := by
    rw [hostWrite_cmd, hbusy]
    exact htake
  have hflags := flags_lcgTaken s v r
  rw [hbusy] at hflags
  have hidle : (lcgTaken s v r).busy = false := congrArg Prod.fst hflags
  have hstatus : readOffset 0x04 (lcgTaken s v r) = 0x00000002#32 := statusRead_lcgTaken hbusy v r
  refine ⟨_, performAccess_write (by decide) (by decide) hwrite, hflags, rfl, ?_, ?_, ?_, ?_⟩
  · rw [engineTurn, hidle]
    rfl
  · exact performAccess_read (by decide) (by decide) _
  · exact performAccess_read (by decide) (by decide) _
  · rw [performAccess_read (by decide) (by decide), hstatus]

end Sys2Proof.Machine
end

section
/-! The buffer writer (41_buffer_writer.md R81 to R90, R94): the size, the quad as a number, GENERATE's acceptance, the pixel
step field by field, and where the iterator stands after it. -/

namespace Sys2Proof.Machine

/-! ### The size (R81, R84) -/

theorem npix_le (s : State) : npix s ≤ (2 ^ 32 - 1) ^ 2 := by
  rw [npix, sq]
  exact Nat.mul_le_mul (Nat.le_pred_of_lt s.width.isLt) (Nat.le_pred_of_lt s.height.isLt)

theorem npix_eq_zero_iff {s : State} : npix s = 0 ↔ s.width = 0#32 ∨ s.height = 0#32 := by
  rw [npix, Nat.mul_eq_zero, BitVec.toNat_eq, BitVec.toNat_eq, BitVec.toNat_ofNat, Nat.zero_mod]

/-- A size that the size check passes is held by LENGTH whole (R23). -/
theorem toNat_ofNat_size {s : State} (hcfg : s.cfg.wf) (hfits : size s ≤ s.cfg.obufCap) :
    (BitVec.ofNat 64 (size s)).toNat = size s := by
  obtain ⟨-, haddrW, hcap⟩ := hcfg
  have hpow : 2 ^ s.cfg.addrW ≤ 2 ^ 62 := Nat.pow_le_pow_right (by decide) haddrW
  rw [BitVec.toNat_ofNat, Nat.mod_eq_of_lt (by omega)]

/-- Settles O18: the bounds on `size` are four times those on `npix`. -/
theorem sizeIsExact : Obligations.SizeIsExact := by
  intro s
  have hle := npix_le s
  refine ⟨rfl, hle, by omega, rfl, ?_, ?_⟩
  · rw [size]; omega
  · rw [size]; omega

/-! ### The quad (R87) -/

theorem toNat_append_eq_add {m n : Nat} (v : BitVec m) (w : BitVec n) :
    (v ++ w).toNat = v.toNat * 2 ^ n + w.toNat := by
  rw [BitVec.toNat_append, ← Nat.shiftLeft_add_eq_or_of_lt w.isLt, Nat.shiftLeft_eq]

/-- Below bit 24, joining the alpha byte is adding it. -/
theorem toNat_alpha_or {v : Word} (h : v.toNat < 2 ^ 24) : (0xFF000000#32 ||| v).toNat = 0xFF000000 + v.toNat := by
  rw [BitVec.toNat_or]
  exact (Nat.two_pow_add_eq_or_of_lt h 0xFF).symm

/-- The quad as one product: no byte of `n * 0x00010101` carries into the next (R87). -/
theorem pack_eq (n : Byte) : pack n = 0xFF000000#32 ||| (BitVec.setWidth 32 n * 0x00010101#32) := by
  have hn := n.isLt
  have hgrey : (BitVec.setWidth 32 n * 0x00010101#32).toNat = n.toNat * 0x00010101 := by
    have hwide : (BitVec.setWidth 32 n).toNat = n.toNat := BitVec.toNat_setWidth_of_le (by decide)
    rw [BitVec.toNat_mul_of_lt (by simp only [hwide, BitVec.toNat_ofNat]; omega), hwide, BitVec.toNat_ofNat]
  apply BitVec.eq_of_toNat_eq
  rw [toNat_alpha_or (by omega), hgrey, pack, toNat_append_eq_add, toNat_append_eq_add, toNat_append_eq_add]
  simp only [BitVec.toNat_ofNat]
  omega

/-- Settles O22: the quad as one product, its four bytes in place, and the bytes outside it. -/
theorem quadIsGreyAndOpaque : Obligations.QuadIsGreyAndOpaque :=
  ⟨pack_eq, quadAt_writeLE, fun m a x n h => read?_writeQuad_other m a x (pack n) h⟩

/-! ### GENERATE (R84, R86, R94) -/

theorem busy_of_flags {s : State} {b d e o : Bool} {c : Byte} (h : s.flags = (b, d, e, o, c)) : s.busy = b :=
  congrArg Prod.fst h

/-- With BUSY = 0 the engine has no step (R88). -/
theorem engineTurn_of_idle {s : State} (h : s.busy = false) : engineTurn s = .next s := by
  rw [engineTurn, h]
  rfl

theorem exec_generate_of_overflow {s : State} (h : size s > 2 ^ s.cfg.addrW) :
    exec .generate s = .next (raiseCmdError .sizeOverflow (s.setLength 0#64)) := if_pos h

theorem exec_generate_of_noCapacity {s : State} (h : size s ≤ 2 ^ s.cfg.addrW) (hcap : size s > s.cfg.obufCap) :
    exec .generate s = .next (raiseCmdError .noCapacity (s.setLength 0#64)) :=
  (if_neg (Nat.not_lt.2 h)).trans (if_pos hcap)

theorem exec_generate_of_fits {s : State} (h : size s ≤ 2 ^ s.cfg.addrW) (hcap : size s ≤ s.cfg.obufCap) :
    exec .generate s = .next (acceptGenerate s) :=
  (if_neg (Nat.not_lt.2 h)).trans (if_neg (Nat.not_lt.2 hcap))

/-- No pixel passes the size check of every implementation (R94). -/
theorem exec_generate_of_npix_eq_zero {s : State} (h : npix s = 0) : exec .generate s = .next (acceptGenerate s) := by
  have hsize : size s = 0 := by rw [size, h]
  exact exec_generate_of_fits (hsize ▸ Nat.zero_le _) (hsize ▸ Nat.zero_le _)

/-- What the acceptance leaves of each field: STATE seeded, the iterator and LENGTH 0, the rest but STATUS kept (R86). -/
theorem acceptGenerate_frame (s : State) :
    acceptGenerate s = { s with
      state := s.seed, x := 0#32, y := 0#32, waddr := 0, length := 0#64, status := (acceptGenerate s).status } := by
  rw [acceptGenerate_eq]
  simp only [State.setState, State.setIter, State.setLength, State.setStatus, Nat.zero_mod]

/-- With a pixel to write the acceptance sets BUSY alone (R86). -/
theorem flags_acceptGenerate_of_pixels {s : State} (h : npix s ≠ 0) :
    (acceptGenerate s).flags = (true, s.done, s.err, s.ovr, s.errcode) := by
  rw [acceptGenerate_eq, if_neg h]
  simp [State.flags, State.busy, State.done, State.err, State.ovr, State.errcode]

/-- With no pixel to write the acceptance completes the command (R90, R94). -/
theorem flags_acceptGenerate_of_npix_eq_zero {s : State} (h : npix s = 0) :
    (acceptGenerate s).flags = (false, true, s.err, s.ovr, s.errcode) := by
  rw [acceptGenerate, if_pos h, flags_completeGenerate]
  rfl

/-- Settles O19: the size check tries the address range first, then the storage; a size of 2^ADDR_W is positive, so it
starts the engine where it fits. -/
theorem oversizedGenerateFails : Obligations.OversizedGenerateFails := by
  refine ⟨fun s hover => ?_, fun s hrange hcap => ?_, fun s hsize hcap => ?_⟩
  · exact ⟨_, exec_generate_of_overflow hover, rfl, flags_raiseCmdError _ _⟩
  · exact ⟨_, exec_generate_of_noCapacity hrange hcap, rfl, flags_raiseCmdError _ _⟩
  · have hpixels : npix s ≠ 0 := by
      have hpos : 0 < 2 ^ s.cfg.addrW := Nat.two_pow_pos _
      rw [← hsize, size] at hpos
      omega
    exact ⟨_, exec_generate_of_fits hsize.le (hsize.trans hcap.symm).le, flags_acceptGenerate_of_pixels hpixels⟩

/-- The take of a GENERATE with no pixel is its acceptance, on the cleared record (R94, R99). -/
theorem takeCommand_generate_of_npix_eq_zero {s : State} (h : npix s = 0) :
    takeCommand 0x00000004#32 s = .next (acceptGenerate (clearRecord s)) :=
  (takeCommand_ok (decode_encode .generate) s).trans (exec_generate_of_npix_eq_zero (s := clearRecord s) h)

/-- Settles O21: the write is the take, the take is the acceptance, and that completes with DONE alone set. -/
theorem zeroPixelsCompleteAtOnce : Obligations.ZeroPixelsCompleteAtOnce := by
  intro s hside hbusy
  have hnpix : npix s = 0 := npix_eq_zero_iff.2 hside
  have hwrite : hostWrite 0x00 0x00000004#32 s = .next (acceptGenerate (clearRecord s)) := by
    rw [hostWrite_cmd, hbusy]
    exact takeCommand_generate_of_npix_eq_zero hnpix
  have hflags : (acceptGenerate (clearRecord s)).flags = (false, true, false, false, 0x00#8) := by
    have hcleared := flags_clearRecord s
    simp only [State.flags, Prod.mk.injEq] at hcleared
    obtain ⟨-, -, herr, hovr, hcode⟩ := hcleared
    rw [flags_acceptGenerate_of_npix_eq_zero (s := clearRecord s) hnpix, herr, hovr, hcode]
  exact ⟨hnpix, by rw [size, hnpix], _, performAccess_write (by decide) (by decide) hwrite,
    acceptGenerate_frame (clearRecord s), hflags, engineTurn_of_idle (busy_of_flags hflags)⟩

/-! ### The pixel step, field by field (R89, R90) -/

/-- The state a pixel step leaves when its quad lies in the storage of OBUF (R89). -/
def afterPixel (s : State) : State := completeIfLast (advanceIter (writeQuad s))

/-- With BUSY = 1 the engine's turn is the pixel step (R88, R89). -/
theorem engineTurn_of_busy {s : State} (hbusy : s.busy = true) (hfits : s.waddr + 4 ≤ s.cfg.obufCap) :
    engineTurn s = .next (afterPixel s) := by
  rw [engineTurn, if_pos hbusy, pixelStep_of_fits hfits, afterPixel]

section fields
variable (s : State)

@[simp] theorem afterPixel_state : (afterPixel s).state = lcgStep s.state := by rw [afterPixel, pixelStep_eq]; rfl
@[simp] theorem afterPixel_obuf : (afterPixel s).obuf = nextObuf s := by rw [afterPixel, pixelStep_eq]; rfl
@[simp] theorem afterPixel_x : (afterPixel s).x = nextX s := by rw [afterPixel, pixelStep_eq]; rfl
@[simp] theorem afterPixel_y : (afterPixel s).y = nextY s := by rw [afterPixel, pixelStep_eq]; rfl
@[simp] theorem afterPixel_width : (afterPixel s).width = s.width := by rw [afterPixel, pixelStep_eq]; rfl

theorem afterPixel_length :
    (afterPixel s).length = if nextY s = s.height then BitVec.ofNat 64 (size s) else s.length := by
  rw [afterPixel, pixelStep_eq]; rfl

theorem afterPixel_status :
    (afterPixel s).status = if nextY s = s.height then withDone (withBusy s.status false) true else s.status := by
  rw [afterPixel, pixelStep_eq]; rfl

/-- A pixel step writes no field but these seven (R89). -/
theorem afterPixel_frame :
    afterPixel s = { s with
      state := (afterPixel s).state, obuf := (afterPixel s).obuf, waddr := (afterPixel s).waddr, x := (afterPixel s).x,
      y := (afterPixel s).y, length := (afterPixel s).length, status := (afterPixel s).status } := by
  rw [afterPixel, pixelStep_eq]; rfl

end fields

/-- WADDR advances by 4 where it does not wrap (R89, R10). -/
theorem afterPixel_waddr {s : State} (h : s.waddr + 4 < 2 ^ (s.cfg.addrW + 1)) : (afterPixel s).waddr = s.waddr + 4 := by
  rw [afterPixel, pixelStep_eq]
  exact Nat.mod_eq_of_lt h

/-- The last pixel step completes the command (R90). -/
theorem flags_afterPixel_of_last {s : State} (h : nextY s = s.height) :
    (afterPixel s).flags = (false, true, s.err, s.ovr, s.errcode) := by
  simp [State.flags, State.busy, State.done, State.err, State.ovr, State.errcode, afterPixel_status, h]

/-- LENGTH and STATUS change in the last pixel step alone (R90). -/
theorem afterPixel_record (s : State) :
    if nextY s = s.height
      then (afterPixel s).length = BitVec.ofNat 64 (size s)
        ∧ (afterPixel s).flags = (false, true, s.err, s.ovr, s.errcode)
      else (afterPixel s).length = s.length ∧ (afterPixel s).status = s.status := by
  split
  · next h => exact ⟨(afterPixel_length s).trans (if_pos h), flags_afterPixel_of_last h⟩
  · next h => exact ⟨(afterPixel_length s).trans (if_neg h), (afterPixel_status s).trans (if_neg h)⟩

/-- The iterator moves to the next column, or to the first column of the next row (R89). -/
theorem nextX_nextY (s : State) :
    if s.x.toNat + 1 = s.width.toNat then nextX s = 0#32 ∧ nextY s = s.y + 1#32
      else nextX s = s.x + 1#32 ∧ nextY s = s.y := by
  split
  · next h => exact ⟨if_pos h, if_pos h⟩
  · next h => exact ⟨if_neg h, if_neg h⟩

/-! ### Where the iterator stands under the invariant (10_state.md R28; R85, R89) -/

theorem BusyInv.pixIndex_lt {s : State} (h : BusyInv s) : pixIndex s < npix s := by
  have hrows : (s.y.toNat + 1) * s.width.toNat ≤ s.height.toNat * s.width.toNat := Nat.mul_le_mul_right _ h.yLt
  have hcols := h.xLt
  rw [Nat.succ_mul] at hrows
  rw [pixIndex, npix, Nat.mul_comm s.width.toNat]
  omega

/-- The quad of the next pixel lies in the storage of OBUF (R85). -/
theorem BusyInv.quad_fits {s : State} (h : BusyInv s) : s.waddr + 4 ≤ s.cfg.obufCap := by
  have hp := h.pixIndex_lt
  have hsize := h.sizeFits
  rw [size] at hsize
  rw [h.waddrEq]
  omega

/-- WADDR does not wrap, since OBUF_CAP is at most 2^ADDR_W (R85). -/
theorem BusyInv.waddr_no_wrap {s : State} (h : BusyInv s) (hcfg : s.cfg.wf) :
    s.waddr + 4 < 2 ^ (s.cfg.addrW + 1) := by
  obtain ⟨-, -, hcap⟩ := hcfg
  calc s.waddr + 4 ≤ 2 ^ s.cfg.addrW := h.quad_fits.trans hcap
    _ < 2 ^ (s.cfg.addrW + 1) := Nat.pow_lt_pow_succ (by decide)

/-- A word below another one is not the largest, so its successor does not wrap. -/
theorem toNat_add_one_of_lt {v w : Word} (h : v.toNat < w.toNat) : (v + 1#32).toNat = v.toNat + 1 :=
  BitVec.toNat_add_of_lt (Nat.lt_of_le_of_lt h w.isLt)

theorem BusyInv.nextX_lt {s : State} (h : BusyInv s) : (nextX s).toNat < s.width.toNat := by
  have hx := h.xLt
  unfold nextX
  split
  · exact Nat.zero_lt_of_lt hx
  · rw [toNat_add_one_of_lt hx]
    omega

/-- The iterator a pixel step leaves stands at pixel `p + 1`, in row-major order (R89). -/
theorem BusyInv.next_pixIndex {s : State} (h : BusyInv s) :
    (nextY s).toNat * s.width.toNat + (nextX s).toNat = pixIndex s + 1 := by
  unfold nextX nextY
  rw [pixIndex]
  split
  · next hrow =>
    rw [toNat_add_one_of_lt h.yLt, Nat.succ_mul, BitVec.toNat_ofNat]
    omega
  · rw [toNat_add_one_of_lt h.xLt]
    omega

theorem BusyInv.pixIndex_afterPixel {s : State} (h : BusyInv s) : pixIndex (afterPixel s) = pixIndex s + 1 := by
  rw [pixIndex, afterPixel_x, afterPixel_y, afterPixel_width, h.next_pixIndex]

/-- After the last pixel the iterator stands at row H, column 0: the one way to write `H * W` as a row and a column (R90). -/
theorem BusyInv.next_of_last {s : State} (h : BusyInv s) (hlast : pixIndex s + 1 = npix s) :
    nextX s = 0#32 ∧ nextY s = s.height := by
  have hnext := h.next_pixIndex
  rw [hlast, npix] at hnext
  have hwidth : 0 < s.width.toNat := Nat.zero_lt_of_lt h.xLt
  have hdivmod : s.width.toNat * s.height.toNat / s.width.toNat = (nextY s).toNat
      ∧ s.width.toNat * s.height.toNat % s.width.toNat = (nextX s).toNat :=
    (Nat.div_mod_unique hwidth).2 ⟨by rw [← hnext, Nat.add_comm, Nat.mul_comm], h.nextX_lt⟩
  rw [Nat.mul_div_cancel_left _ hwidth, Nat.mul_mod_right] at hdivmod
  obtain ⟨hy, hx⟩ := hdivmod
  exact ⟨BitVec.eq_of_toNat_eq hx.symm, BitVec.eq_of_toNat_eq hy.symm⟩

/-- Settles O23: the pixel step field by field; the invariant gives its premises and the law of the pixel index. -/
theorem pixelStepDrawsAndWritesOneQuad : Obligations.PixelStepDrawsAndWritesOneQuad := by
  refine ⟨fun s hbusy hfits hwrap => ?_, fun s hinv hbusy => ?_⟩
  · refine ⟨_, engineTurn_of_busy hbusy hfits, afterPixel_state s, ?_, fun a ha => ?_, afterPixel_waddr hwrap, ?_, ?_,
      afterPixel_frame s⟩
    · rw [afterPixel_obuf]
      exact quadAt_writeLE ..
    · rw [afterPixel_obuf]
      exact read?_writeQuad_other _ _ _ _ ha
    · rw [afterPixel_x, afterPixel_y]
      exact nextX_nextY s
    · rw [afterPixel_y]
      exact afterPixel_record s
  · have hb := hinv.busy hbusy
    refine ⟨hb.quad_fits, hb.waddr_no_wrap hinv.cfgWf, hb.pixIndex_lt, hb.stateEq, hb.waddrEq, _,
      engineTurn_of_busy hbusy hb.quad_fits, ?_, hb.pixIndex_afterPixel⟩
    rw [afterPixel_obuf, nextObuf, hb.waddrEq, lcgIter_succ, ← hb.stateEq]
    exact quadAt_writeLE ..

/-- Settles O24: the last pixel leaves the iterator at row H, so its step completes the command, as the acceptance does with
no pixel; either way BUSY = 0 leaves the engine no step. -/
theorem lastPixelCompletesTheGenerate : Obligations.LastPixelCompletesTheGenerate := by
  refine ⟨fun s hinv hbusy hlast => ?_, fun s hnpix => ?_⟩
  · have hb := hinv.busy hbusy
    obtain ⟨hx, hy⟩ := hb.next_of_last hlast
    obtain ⟨-, herr, hcode⟩ := hinv.status.busyClean hbusy
    have hflags : (afterPixel s).flags = (false, true, false, s.ovr, 0x00#8) := by
      rw [flags_afterPixel_of_last hy, State.err, State.errcode, herr, hcode]
    refine ⟨_, engineTurn_of_busy hbusy hb.quad_fits, ?_, hflags, (afterPixel_x s).trans hx, (afterPixel_y s).trans hy, ?_,
      engineTurn_of_idle (busy_of_flags hflags)⟩
    · rw [afterPixel_length, if_pos hy, toNat_ofNat_size hinv.cfgWf hb.sizeFits]
    · rw [afterPixel_waddr (hb.waddr_no_wrap hinv.cfgWf), hb.waddrEq, size, ← hlast, Nat.mul_succ]
  · have hflags := flags_acceptGenerate_of_npix_eq_zero hnpix
    refine ⟨_, exec_generate_of_npix_eq_zero hnpix, ?_, hflags, ?_, ?_, ?_, engineTurn_of_idle (busy_of_flags hflags)⟩
    · rw [acceptGenerate_frame, size, hnpix]
      rfl
    · rw [acceptGenerate_frame]
    · rw [acceptGenerate_frame]
    · rw [acceptGenerate_frame]

end Sys2Proof.Machine
end

section
/-! The host interface (42_host_interface.md R97 to R99, R104): which accesses are refused, the take of a CMD write, the
parameter writes, and the writes dropped while BUSY = 1 with the OVR they leave. -/

namespace Sys2Proof.Machine

/-! ### The accesses of the interface (R64, R104) -/

/-- An access completes exactly when it is one of the interface's. -/
theorem performAccess_next_iff {a : Access} {s : State} :
    (∃ r, performAccess a s = .next r) ↔ a.wf s.cfg = true := by
  rcases performAccess_outcome a s with ⟨hwf, hnext⟩ | ⟨hwf, r, hr⟩
  · exact iff_of_true hnext hwf
  · simp [hwf, hr]

/-- An access is refused exactly when it is none of the interface's. -/
theorem performAccess_refused_iff {a : Access} {s : State} :
    (∃ r, performAccess a s = .refused r) ↔ a.wf s.cfg = false := by
  rcases performAccess_outcome a s with ⟨hwf, r, hr⟩ | ⟨hwf, hrefused⟩
  · simp [hwf, hr]
  · exact iff_of_true hrefused hwf

theorem Access.wf_regWrite_eq_false_iff {p : Params} {off n : Nat} {v : Word} :
    Access.wf p (.regWrite off n v) = false ↔ n ≠ 4 ∨ off % 4 ≠ 0 ∨ 0x100 ≤ off := by
  simp [Access.wf, ← imp_iff_not_or]

theorem Access.wf_regRead_eq_false_iff {p : Params} {off n : Nat} :
    Access.wf p (.regRead off n) = false ↔ n ≠ 4 ∨ off % 4 ≠ 0 ∨ 0x100 ≤ off :=
  Access.wf_regWrite_eq_false_iff (p := p) (v := 0#32)

theorem Access.wf_byteRead_eq_false_iff {p : Params} {a : Nat} :
    Access.wf p (.obufRead a 1) = false ↔ p.obufCap ≤ a := by
  simp [Access.wf]

theorem Access.wf_wordRead_eq_false_iff {p : Params} {a : Nat} :
    Access.wf p (.obufRead a 4) = false ↔ a % 4 ≠ 0 ∨ p.obufCap < a + 4 := by
  simp [Access.wf, ← imp_iff_not_or]

theorem Access.wf_obufRead_eq_false_of_width {p : Params} {a n : Nat} (h1 : n ≠ 1) (h4 : n ≠ 4) :
    Access.wf p (.obufRead a n) = false := by
  simp [Access.wf, h1, h4]

/-- Settles O37: an access is refused exactly when the check of R64 rejects it, and the check says which those are. -/
theorem refusedExactlyOutsideTheInterface : Obligations.RefusedExactlyOutsideTheInterface := by
  refine ⟨fun s off n v => ⟨?_, ?_⟩, fun s a => ?_, fun s a => ?_, fun s a n h1 h4 => ?_, fun s a n v => ?_,
    fun s a => performAccess_next_iff.symm⟩
  · rw [performAccess_refused_iff, Access.wf_regWrite_eq_false_iff]
  · rw [performAccess_refused_iff, Access.wf_regRead_eq_false_iff]
  · rw [performAccess_refused_iff, Access.wf_byteRead_eq_false_iff]
  · rw [performAccess_refused_iff, Access.wf_wordRead_eq_false_iff]
  · exact performAccess_refused_iff.2 (Access.wf_obufRead_eq_false_of_width h1 h4)
  · exact performAccess_refused_iff.2 rfl

/-! ### Writes to the registers of the window (R97 to R99) -/

theorem Reg.offset_mod_four (r : Reg) : r.offset % 4 = 0 := by cases r <;> rfl

/-- A 32-bit write to a register's own offset passes the check of R104. -/
theorem performAccess_writeReg {r : Reg} {v : Word} {s t : State} (h : hostWrite r.offset v s = .next t) :
    performAccess (.regWrite r.offset 4 v) s = .next (t, 0#32) :=
  performAccess_write r.offset_mod_four (Nat.lt_trans r.offset_lt (by decide)) h

/-- A CMD write that arrives while BUSY = 0 is the take of its word (R99). -/
theorem performAccess_cmd {s t : State} {w : Word} (hbusy : s.busy = false) (htake : takeCommand w s = .next t) :
    performAccess (.regWrite 0x00 4 w) s = .next (t, 0#32) := by
  refine performAccess_writeReg (r := .cmd) ((hostWrite_cmd w s).trans ?_)
  rw [hbusy]
  exact htake

/-- A parameter write that arrives while BUSY = 0 stores its value (R97). -/
theorem performAccess_param {s : State} {r : Reg} (hr : r.isParam = true) (hbusy : s.busy = false) (v : Word) :
    performAccess (.regWrite r.offset 4 v) s = .next (writeParam r v s, 0#32) := by
  refine performAccess_writeReg ((hostWrite_param r hr v s).trans ?_)
  rw [hbusy]
  rfl

/-- A write to CMD or a parameter that arrives while BUSY = 1 is dropped (R98). -/
theorem performAccess_dropped {s : State} {r : Reg} (hr : r = .cmd ∨ r.isParam = true) (hbusy : s.busy = true)
    (v : Word) : performAccess (.regWrite r.offset 4 v) s = .next (dropWrite s, 0#32) := by
  apply performAccess_writeReg
  rcases hr with rfl | hparam
  · exact (hostWrite_cmd v s).trans (if_pos hbusy)
  · rw [hostWrite_param r hparam, if_pos hbusy]

/-! ### The end of a take (R99) -/

theorem done_of_flags {s : State} {b d e o : Bool} {c : Byte} (h : s.flags = (b, d, e, o, c)) : s.done = d :=
  congrArg (fun f => f.2.1) h

/-- An acceptance sets BUSY, or DONE with no pixel to write (R86, R94). -/
theorem acceptGenerate_done_or_busy (s : State) : (acceptGenerate s).done = true ∨ (acceptGenerate s).busy = true := by
  by_cases hnpix : npix s = 0
  · exact .inl (done_of_flags (flags_acceptGenerate_of_npix_eq_zero hnpix))
  · exact .inr (busy_of_flags (flags_acceptGenerate_of_pixels hnpix))

/-- A take completes its command, unless it accepts a GENERATE and leaves it to the engine (R99). -/
theorem takeCommand_done_or_busy {w : Word} {s t : State} (h : takeCommand w s = .next t) :
    t.done = true ∨ t.busy = true := by
  rcases takeCommand_cases h with ⟨-, rfl⟩ | ⟨i, v, r, -, -, -, rfl⟩ | ⟨-, -, rfl⟩ | ⟨-, -, -, rfl⟩ | ⟨-, -, -, rfl⟩
  · exact .inl (done_of_flags (flags_raiseCmdError ..))
  · exact .inl (done_of_flags (flags_completeOk _))
  · exact .inl (done_of_flags (flags_raiseCmdError ..))
  · exact .inl (done_of_flags (flags_raiseCmdError ..))
  · exact acceptGenerate_done_or_busy _

/-- Settles O5: with BUSY = 0 the write is the take, which runs the command or reports the word on the cleared record. -/
theorem takeClearsTheRecordAndPerforms : Obligations.TakeClearsTheRecordAndPerforms := by
  refine ⟨fun s u w i hbusy hdecode hexec => ?_, fun s w e hbusy hdecode => ⟨?_, ?_⟩,
    fun s => ⟨rfl, flags_clearRecord s⟩, fun s w hbusy => ?_⟩
  · exact performAccess_cmd hbusy ((takeCommand_ok hdecode s).trans hexec)
  · exact performAccess_cmd hbusy (takeCommand_error hdecode s)
  · rw [flags_reportIllegal, hbusy]
  · obtain ⟨t, htake⟩ := takeCommand_next w s
    exact ⟨t, performAccess_cmd hbusy htake, takeCommand_done_or_busy htake⟩

/-- Settles O30: each parameter's write is its `writeParam`; a read of INTENSITY zero-extends the stored byte. -/
theorem parameterWritesStoreTheirValue : Obligations.ParameterWritesStoreTheirValue := by
  refine ⟨fun s v hbusy => ⟨?_, ?_, ?_, ?_⟩, fun s hbusy => ?_⟩
  · exact performAccess_param (r := .width) rfl hbusy v
  · exact performAccess_param (r := .height) rfl hbusy v
  · exact performAccess_param (r := .intensity) rfl hbusy v
  · exact performAccess_param (r := .seed) rfl hbusy v
  · exact ⟨_, performAccess_param (r := .intensity) rfl hbusy 0x1234#32, rfl, performAccess_read rfl (by decide) _⟩

/-! ### OVR (R98) -/

/-- A parameter write leaves STATUS (R97). -/
theorem writeParam_status (r : Reg) (v : Word) (s : State) : (writeParam r v s).status = s.status := by
  cases r <;> rfl

/-- The engine leaves OVR (R89, R90). -/
theorem pixelStep_ovr {s t : State} (h : pixelStep s = .next t) : t.ovr = s.ovr := by
  obtain ⟨-, rfl⟩ := pixelStep_cases h
  rw [State.ovr, State.setStatus_status]
  split
  · rw [statusOvr_withDone, statusOvr_withBusy, State.ovr]
  · rfl

/-- A register write that is no take keeps a set OVR: it leaves STATUS, or it is dropped and sets OVR (R97, R98). -/
theorem hostWrite_ovr {off : Nat} {v : Word} {s t : State} (h : hostWrite off v s = .next t) (hovr : s.ovr = true) :
    t.ovr = true ∨ (off = Reg.cmd.offset ∧ s.busy = false) := by
  rcases hostWrite_cases off v s with he | ⟨-, he⟩ | ⟨-, r, -, -, he⟩ | ⟨hbusy, hoff, -⟩
  · cases he.symm.trans h
    exact .inl hovr
  · cases he.symm.trans h
    exact .inl (statusOvr_withOvr s.status true)
  · cases he.symm.trans h
    exact .inl ((congrArg statusOvr (writeParam_status r v s)).trans hovr)
  · exact .inr ⟨hoff, hbusy⟩

/-- A CMD write that arrives while BUSY = 0 is taken (R99). -/
theorem takenWord_of_cmdWrite {s : State} {w : Word} (h : nextRegWrite s = some (Reg.cmd.offset, w))
    (hbusy : s.busy = false) : takenWord s = some w := by
  simp [takenWord, h, hbusy]

/-- A set OVR stays through every step but a take or a reset (R98). -/
theorem step_ovr {s t : State} (h : step s = .next t) (hovr : s.ovr = true) :
    t.ovr = true ∨ (takenWord s).isSome ∨ (nextTurn s).1 = .reset := by
  obtain ⟨l, -, ⟨-, -, hpixel⟩ | ⟨-, -, rfl⟩ | ⟨hreset, -⟩ | ⟨-, ⟨k, pc, ts, rfl⟩, -⟩ | ⟨-, off, d, hwrite, hw⟩⟩ :=
    step_cases h
  · exact .inl ((pixelStep_ovr hpixel).trans hovr)
  · exact .inl hovr
  · exact .inr (.inr hreset)
  · exact .inl hovr
  · rcases hostWrite_ovr hw hovr with hkept | ⟨rfl, hbusy⟩
    · exact .inl hkept
    · exact .inr (.inl (by rw [takenWord_of_cmdWrite hwrite hbusy, Option.isSome_some]))

/-- The registers whose writes BUSY drops, by offset (R98). -/
theorem eq_offset_of_dropped {off : Nat} (h : off = 0x00 ∨ off = 0x08 ∨ off = 0x0C ∨ off = 0x10 ∨ off = 0x14) :
    ∃ r : Reg, off = r.offset ∧ (r = .cmd ∨ r.isParam = true) := by
  rcases h with rfl | rfl | rfl | rfl | rfl
  · exact ⟨.cmd, rfl, .inl rfl⟩
  · exact ⟨.width, rfl, .inr rfl⟩
  · exact ⟨.height, rfl, .inr rfl⟩
  · exact ⟨.intensity, rfl, .inr rfl⟩
  · exact ⟨.seed, rfl, .inr rfl⟩

/-- Settles O31: the dropped write sets OVR alone, and only a take or a reset clears it. -/
theorem busyWritesAreDropped : Obligations.BusyWritesAreDropped := by
  refine ⟨fun s off v hbusy hoff => ?_, fun s t hovr hstep => step_ovr hstep hovr⟩
  obtain ⟨r, rfl, hr⟩ := eq_offset_of_dropped hoff
  exact ⟨dropWrite s, performAccess_dropped hr hbusy v, rfl, by rw [flags_dropWrite, hbusy]⟩

end Sys2Proof.Machine
end

section
/-! The errors (60_exceptions.md R110 to R112, R123): the error completion, the flags each kind of take leaves, what an error
leaves unchanged, and STATUS as the word of its flags. -/

namespace Sys2Proof.Machine

/-- Settles O40: the record is written in STATUS alone. -/
theorem errorCompletionSetsTheRecord : Obligations.ErrorCompletionSetsTheRecord :=
  ⟨fun e s => ⟨rfl, flags_raiseCmdError e s⟩, rfl, rfl, rfl⟩

/-! ### The flags each kind of take leaves (R99, R123) -/

theorem err_of_flags {s : State} {b d e o : Bool} {c : Byte} (h : s.flags = (b, d, e, o, c)) : s.err = e :=
  congrArg (fun f => f.2.2.1) h

theorem ovr_of_flags {s : State} {b d e o : Bool} {c : Byte} (h : s.flags = (b, d, e, o, c)) : s.ovr = o :=
  congrArg (fun f => f.2.2.2.1) h

theorem errcode_of_flags {s : State} {b d e o : Bool} {c : Byte} (h : s.flags = (b, d, e, o, c)) : s.errcode = c :=
  congrArg (fun f => f.2.2.2.2) h

/-- The report of a size error sets LENGTH beside STATUS, so its flags are those of the raise on the cleared record (R84, R99). -/
theorem flags_reportSizeError (e : CmdError) (s : State) :
    (raiseCmdError e ((clearRecord s).setLength 0#64)).flags = (s.busy, true, true, false, e.code) := by
  have hcleared : ((clearRecord s).setLength 0#64).flags = (s.busy, false, false, false, 0x00#8) := flags_clearRecord s
  rw [flags_raiseCmdError, busy_of_flags hcleared, ovr_of_flags hcleared]

/-- An accepted GENERATE reports no error: BUSY is set, or DONE with no pixel to write (R86, R94, R99). -/
theorem flags_takeAccept (s : State) :
    (acceptGenerate (clearRecord s)).flags = (decide (npix s ≠ 0), decide (npix s = 0), false, false, 0x00#8) := by
  have hcleared := flags_clearRecord s
  by_cases hnpix : npix s = 0
  · rw [flags_acceptGenerate_of_npix_eq_zero (s := clearRecord s) hnpix, err_of_flags hcleared, ovr_of_flags hcleared,
      errcode_of_flags hcleared, decide_eq_true hnpix, decide_eq_false (not_not.2 hnpix)]
  · rw [flags_acceptGenerate_of_pixels (s := clearRecord s) hnpix, done_of_flags hcleared, err_of_flags hcleared,
      ovr_of_flags hcleared, errcode_of_flags hcleared, decide_eq_true hnpix, decide_eq_false hnpix]

/-- The take of a command of the LCG engine leaves DONE alone set (R72). -/
theorem takeCommand_lcg_flags {i : Instr} (hi : i = .init ∨ i = .nextWord ∨ i = .nextByte) (s : State) :
    ∃ t, takeCommand (encode i) s = .next t ∧ t.flags = (s.busy, true, false, false, 0x00#8) := by
  obtain ⟨v, r, htake⟩ := takeCommand_lcg hi s
  exact ⟨_, htake, flags_lcgTaken s v r⟩

/-- The take of a GENERATE past the address range leaves the record of SIZE_OVERFLOW (R84). -/
theorem takeCommand_overflow_flags {s : State} (h : size s > 2 ^ s.cfg.addrW) :
    ∃ t, takeCommand 4#32 s = .next t ∧ t.flags = (s.busy, true, true, false, 0x02#8) :=
  ⟨_, (takeCommand_ok (decode_encode .generate) s).trans (exec_generate_of_overflow (s := clearRecord s) h),
    flags_reportSizeError .sizeOverflow s⟩

/-- The take of a GENERATE past the storage of OBUF leaves the record of NO_CAPACITY (R84). -/
theorem takeCommand_noCapacity_flags {s : State} (h : size s ≤ 2 ^ s.cfg.addrW) (hcap : size s > s.cfg.obufCap) :
    ∃ t, takeCommand 4#32 s = .next t ∧ t.flags = (s.busy, true, true, false, 0x03#8) :=
  ⟨_, (takeCommand_ok (decode_encode .generate) s).trans (exec_generate_of_noCapacity (s := clearRecord s) h hcap),
    flags_reportSizeError .noCapacity s⟩

/-- The take of a GENERATE that fits leaves the flags of its acceptance (R86). -/
theorem takeCommand_fits_flags {s : State} (h : size s ≤ 2 ^ s.cfg.addrW) (hcap : size s ≤ s.cfg.obufCap) :
    ∃ t, takeCommand 4#32 s = .next t
      ∧ t.flags = (decide (npix s ≠ 0), decide (npix s = 0), false, false, 0x00#8) :=
  ⟨_, (takeCommand_ok (decode_encode .generate) s).trans (exec_generate_of_fits (s := clearRecord s) h hcap),
    flags_takeAccept s⟩

/-- The take of a word that is none of the four leaves the record of ILLEGAL_CMD (R58, R108). -/
theorem takeCommand_illegal_flags {w : Word} (h : w ≠ 1#32 ∧ w ≠ 2#32 ∧ w ≠ 3#32 ∧ w ≠ 4#32) (s : State) :
    ∃ t, takeCommand w s = .next t ∧ t.flags = (s.busy, true, true, false, 0x01#8) := by
  obtain ⟨-, -, -, -, -, hwords, -⟩ := exactlyFourWordsAreLegal
  obtain ⟨t, htake, -, hflags⟩ := takeCommand_illegal ((hwords w).2 h) s
  exact ⟨t, htake, hflags⟩

/-! ### What an error leaves unchanged (R111) -/

/-- Settles O41: of the five outcomes of a take the three error reports end with ERR = 1; each writes STATUS, and those of a
size error LENGTH. -/
theorem errorsAreAllOrNothing : Obligations.ErrorsAreAllOrNothing := by
  intro w s t htake herr
  rcases takeCommand_cases htake with
    ⟨-, rfl⟩ | ⟨i, v, r, -, -, -, rfl⟩ | ⟨-, -, rfl⟩ | ⟨-, -, -, rfl⟩ | ⟨-, -, -, rfl⟩
  · exact ⟨rfl, fun _ => rfl, fun hcode => absurd (errcode_of_flags (flags_reportIllegal s)) hcode⟩
  · exact absurd ((err_of_flags (flags_lcgTaken s v r)).symm.trans herr) (by decide)
  · refine ⟨rfl, fun hcode => absurd ?_ (by decide : CmdError.sizeOverflow.code ≠ 0x01#8), fun _ => rfl⟩
    exact (errcode_of_flags (flags_reportSizeError .sizeOverflow s)).symm.trans hcode
  · refine ⟨rfl, fun hcode => absurd ?_ (by decide : CmdError.noCapacity.code ≠ 0x01#8), fun _ => rfl⟩
    exact (errcode_of_flags (flags_reportSizeError .noCapacity s)).symm.trans hcode
  · exact absurd ((err_of_flags (flags_takeAccept s)).symm.trans herr) (by decide)

/-! ### The order of the checks (R112) -/

/-- A CMD write that arrives while BUSY = 0 ends with the ERR and ERRCODE of its take (R99). -/
theorem performAccess_cmd_record {s : State} {w : Word} {b d e o : Bool} {c : Byte} (hbusy : ¬ s.busy = true)
    (h : ∃ t, takeCommand w s = .next t ∧ t.flags = (b, d, e, o, c)) :
    ∃ t, performAccess (.regWrite 0x00 4 w) s = .next (t, 0#32) ∧ t.err = e ∧ t.errcode = c := by
  obtain ⟨t, htake, hflags⟩ := h
  exact ⟨t, performAccess_cmd (Bool.eq_false_of_not_eq_true hbusy) htake, err_of_flags hflags, errcode_of_flags hflags⟩

/-- A legal word whose size check, if it has one, passes reports no error. -/
theorem takeCommand_noError_flags {s : State} {w : Word} (hlegal : ¬ (w ≠ 1#32 ∧ w ≠ 2#32 ∧ w ≠ 3#32 ∧ w ≠ 4#32))
    (hrange : ¬ (w = 4#32 ∧ size s > 2 ^ s.cfg.addrW)) (hcap : ¬ (w = 4#32 ∧ size s > s.cfg.obufCap)) :
    ∃ b d, ∃ t, takeCommand w s = .next t ∧ t.flags = (b, d, false, false, 0x00#8) := by
  obtain rfl | rfl | rfl | rfl : w = 1#32 ∨ w = 2#32 ∨ w = 3#32 ∨ w = 4#32 := by tauto
  · exact ⟨_, _, takeCommand_lcg_flags (i := .init) (.inl rfl) s⟩
  · exact ⟨_, _, takeCommand_lcg_flags (i := .nextWord) (.inr (.inl rfl)) s⟩
  · exact ⟨_, _, takeCommand_lcg_flags (i := .nextByte) (.inr (.inr rfl)) s⟩
  · exact ⟨_, _, takeCommand_fits_flags (Nat.not_lt.1 fun h => hrange ⟨rfl, h⟩) (Nat.not_lt.1 fun h => hcap ⟨rfl, h⟩)⟩

/-- Settles O42: one outcome of the write for each rank of the checks. -/
theorem firstCheckDecidesTheOutcome : Obligations.FirstCheckDecidesTheOutcome := by
  intro s w
  split_ifs with hbusy hillegal hrange hcap
  · have hflags := flags_dropWrite s
    exact ⟨_, performAccess_dropped (.inl rfl) hbusy w, rfl, errcode_of_flags hflags, err_of_flags hflags⟩
  · exact performAccess_cmd_record hbusy (takeCommand_illegal_flags hillegal s)
  · obtain ⟨rfl, hsize⟩ := hrange
    exact performAccess_cmd_record hbusy (takeCommand_overflow_flags hsize)
  · obtain ⟨rfl, hsize⟩ := hcap
    have hfits : size s ≤ 2 ^ s.cfg.addrW := Nat.not_lt.1 fun h => hrange ⟨rfl, h⟩
    exact performAccess_cmd_record hbusy (takeCommand_noCapacity_flags hfits hsize)
  · obtain ⟨_, _, htake⟩ := takeCommand_noError_flags hillegal hrange hcap
    exact performAccess_cmd_record hbusy htake

/-! ### STATUS as the word of its flags (R24, R123) -/

/-- The STATUS word with these flags and the reserved bits 0 (R24). -/
def flagsWord : Bool × Bool × Bool × Bool × Byte → Word
  | (b, d, e, o, c) => 0#16 ++ c ++ 0#4 ++ BitVec.ofBool o ++ BitVec.ofBool e ++ BitVec.ofBool d ++ BitVec.ofBool b

/-- With the reserved bits 0, STATUS is fixed by the flags. -/
theorem status_eq_flagsWord {s : State} (hres : s.status &&& 0xFFFF00F0#32 = 0#32) : s.status = flagsWord s.flags := by
  rw [← statusRead_eq_self hres]
  exact statusRead_of_flags rfl

/-- An acceptance leaves the reserved bits of STATUS. -/
theorem reserved_acceptGenerate (s : State) :
    (acceptGenerate s).status &&& 0xFFFF00F0#32 = s.status &&& 0xFFFF00F0#32 := by
  rw [acceptGenerate_eq]
  split <;> simp

/-- An error completion leaves the reserved bits of STATUS. -/
theorem reserved_raiseCmdError (e : CmdError) (s : State) :
    (raiseCmdError e s).status &&& 0xFFFF00F0#32 = s.status &&& 0xFFFF00F0#32 := by
  simp [raiseCmdError]

/-- The clearing of the record leaves the reserved bits of STATUS. -/
theorem reserved_clearRecord (s : State) :
    (clearRecord s).status &&& 0xFFFF00F0#32 = s.status &&& 0xFFFF00F0#32 := by
  simp [clearRecord]

/-- A take writes only fields of STATUS, never its reserved bits (R11, R24). -/
theorem takeCommand_reserved {w : Word} {s t : State} (h : takeCommand w s = .next t) :
    t.status &&& 0xFFFF00F0#32 = s.status &&& 0xFFFF00F0#32 := by
  rcases takeCommand_cases h with
    ⟨-, rfl⟩ | ⟨i, v, r, -, -, -, rfl⟩ | ⟨-, -, rfl⟩ | ⟨-, -, -, rfl⟩ | ⟨-, -, -, rfl⟩
  · exact (reserved_raiseCmdError ..).trans (reserved_clearRecord s)
  · exact reserved_lcgTaken s v r
  · exact (reserved_raiseCmdError ..).trans (reserved_clearRecord s)
  · exact (reserved_raiseCmdError ..).trans (reserved_clearRecord s)
  · exact (reserved_acceptGenerate _).trans (reserved_clearRecord s)

/-- The flags a take leaves fix its STATUS, when the reserved bits were 0. -/
theorem takeCommand_status {w v : Word} {s : State} {f : Bool × Bool × Bool × Bool × Byte}
    (hres : s.status &&& 0xFFFF00F0#32 = 0#32) (h : ∃ t, takeCommand w s = .next t ∧ t.flags = f)
    (hv : flagsWord f = v) : ∃ t, takeCommand w s = .next t ∧ t.status = v := by
  obtain ⟨t, htake, rfl⟩ := h
  exact ⟨t, htake, (status_eq_flagsWord ((takeCommand_reserved htake).trans hres)).trans hv⟩

/-- A pixel step that ends with BUSY = 0 wrote the last pixel (R90). -/
theorem nextY_eq_height_of_completed {s : State} (hbusy : s.busy = true) (hdone : (afterPixel s).busy = false) :
    nextY s = s.height := by
  by_contra hmore
  have hkept : (afterPixel s).busy = s.busy :=
    congrArg statusBusy ((afterPixel_status s).trans (if_neg hmore))
  exact absurd (hbusy.symm.trans (hkept.symm.trans hdone)) (by decide)

/-- A pixel step leaves the reserved bits of STATUS. -/
theorem reserved_afterPixel (s : State) :
    (afterPixel s).status &&& 0xFFFF00F0#32 = s.status &&& 0xFFFF00F0#32 := by
  rw [afterPixel_status]
  split <;> simp

/-- The completion of a running GENERATE leaves DONE alone set, beside an OVR set meanwhile (R90, R98). -/
theorem status_of_completed {s : State} (hinv : Inv s) (hbusy : s.busy = true) (hdone : (afterPixel s).busy = false) :
    (afterPixel s).status = if s.ovr then 0x0000000A#32 else 0x00000002#32 := by
  obtain ⟨-, herr, hcode⟩ := hinv.status.busyClean hbusy
  rw [status_eq_flagsWord ((reserved_afterPixel s).trans hinv.status.reserved),
    flags_afterPixel_of_last (nextY_eq_height_of_completed hbusy hdone), State.err, herr, State.errcode, hcode]
  cases s.ovr
  · rfl
  · rfl

/-- Settles O44: each row is the word of the flags its take leaves, and the invariant gives those of the completion. -/
theorem statusAfterEveryTake : Obligations.StatusAfterEveryTake := by
  refine ⟨fun s hbusy hres => ⟨fun i hi => ?_, fun hnpix => ?_, fun hnpix hrange hcap => ?_, fun hover => ?_,
    fun hrange hcap => ?_, fun w hillegal => ?_⟩, fun s t hinv hbusy hturn hdone => ?_⟩
  · exact takeCommand_status hres (takeCommand_lcg_flags hi s) (by rw [hbusy]; rfl)
  · have hsize : size s = 0 := by rw [size, hnpix]
    exact takeCommand_status hres (takeCommand_fits_flags (hsize ▸ Nat.zero_le _) (hsize ▸ Nat.zero_le _))
      (by rw [hnpix]; rfl)
  · exact takeCommand_status hres (takeCommand_fits_flags hrange hcap)
      (by rw [decide_eq_true hnpix, decide_eq_false hnpix]; rfl)
  · exact takeCommand_status hres (takeCommand_overflow_flags hover) (by rw [hbusy]; rfl)
  · exact takeCommand_status hres (takeCommand_noCapacity_flags hrange hcap) (by rw [hbusy]; rfl)
  · exact takeCommand_status hres (takeCommand_illegal_flags hillegal s) (by rw [hbusy]; rfl)
  · have hfits : s.waddr + 4 ≤ s.cfg.obufCap := (hinv.busy hbusy).quad_fits
    cases (engineTurn_of_busy hbusy hfits).symm.trans hturn
    exact status_of_completed hinv hbusy hdone

end Sys2Proof.Machine
end

section
/-! Reset (70_reset_and_hazards.md R124, R126): the flags it leaves, the engine after it, and what becomes of a running
GENERATE. -/

namespace Sys2Proof.Machine

theorem runTurn_reset (s : State) : runTurn .reset s = .next (resetBlock s) := rfl

@[simp] theorem flags_resetBlock (s : State) : (resetBlock s).flags = (false, false, false, false, 0x00#8) := by
  simp only [State.flags, State.busy, State.done, State.err, State.ovr, State.errcode, resetBlock_status]
  decide

theorem resetBlock_busy (s : State) : (resetBlock s).busy = false := busy_of_flags (flags_resetBlock s)

theorem resetBlock_done (s : State) : (resetBlock s).done = false := done_of_flags (flags_resetBlock s)

/-- The power-up state holds every reset value already, so a reset there changes nothing (R124, R125). -/
theorem resetBlock_reset : resetBlock State.reset = State.reset := rfl

/-- Settles O45: the registers by the laws of `resetBlock`, and with BUSY = 0 the engine has no step. -/
theorem resetClearsEveryRegister : Obligations.ResetClearsEveryRegister := by
  refine ⟨fun s => ⟨resetBlock s, runTurn_reset s, ?_⟩, ?_, Memory.read?_nil⟩
  · have hengine : engineTurn (resetBlock s) = .next (resetBlock s) := engineTurn_of_idle (resetBlock_busy s)
    simp [hengine]
  · rw [runTurn_reset, resetBlock_reset]

/-- Settles O47: reset leaves OBUF, where the invariant of a running GENERATE has the quads of the pixels already stepped
(R28, R91), and clears LENGTH, DONE and BUSY. -/
theorem resetAbandonsARunningGenerate : Obligations.ResetAbandonsARunningGenerate := by
  intro s hinv hbusy
  have hwritten : pixelsDone (resetBlock s).obuf s.seed (pixIndex s) := by
    rw [resetBlock_obuf]
    exact (hinv.busy hbusy).written
  exact ⟨resetBlock s, runTurn_reset s, resetBlock_length s, resetBlock_done s, resetBlock_busy s,
    fun a => by rw [resetBlock_obuf], hwritten⟩

end Sys2Proof.Machine
end

section
/-! What a step does to the block (00_scope.md R12), said once, with the host's own fields set apart; and what a taken
command can write (42_host_interface.md R99). -/

namespace Sys2Proof.Machine

/-! ### The host's side of the state -/

/-- The state after the host's side has moved: the counter of free values, the host's place in its script, its
temporaries and the turns to come. The block and its parameters are untouched. -/
def State.moveHost (s : State) (k pc : Nat) (ts : Temps) (l : List Turn) : State :=
  { s with draws := k, hpc := pc, temps := ts, schedule := l }

section fields
variable (s : State) (k pc : Nat) (ts : Temps) (l : List Turn)

@[simp] theorem State.moveHost_state : (s.moveHost k pc ts l).state = s.state := rfl
@[simp] theorem State.moveHost_width : (s.moveHost k pc ts l).width = s.width := rfl
@[simp] theorem State.moveHost_height : (s.moveHost k pc ts l).height = s.height := rfl
@[simp] theorem State.moveHost_intensity : (s.moveHost k pc ts l).intensity = s.intensity := rfl
@[simp] theorem State.moveHost_seed : (s.moveHost k pc ts l).seed = s.seed := rfl
@[simp] theorem State.moveHost_result : (s.moveHost k pc ts l).result = s.result := rfl
@[simp] theorem State.moveHost_length : (s.moveHost k pc ts l).length = s.length := rfl
@[simp] theorem State.moveHost_status : (s.moveHost k pc ts l).status = s.status := rfl
@[simp] theorem State.moveHost_x : (s.moveHost k pc ts l).x = s.x := rfl
@[simp] theorem State.moveHost_y : (s.moveHost k pc ts l).y = s.y := rfl
@[simp] theorem State.moveHost_waddr : (s.moveHost k pc ts l).waddr = s.waddr := rfl
@[simp] theorem State.moveHost_obuf : (s.moveHost k pc ts l).obuf = s.obuf := rfl
@[simp] theorem State.moveHost_cfg : (s.moveHost k pc ts l).cfg = s.cfg := rfl
@[simp] theorem State.moveHost_script : (s.moveHost k pc ts l).script = s.script := rfl

end fields

/-! ### The one inversion of the step -/

/-- What a step from `s` does to the block, by who acts. -/
inductive StepEffect (s : State) : State → Prop
  /-- The engine writes a pixel (R89). -/
  | pixel (l : List Turn) (turn : (nextTurn s).1 = .engine) (busy : s.busy = true)
      (fits : s.waddr + 4 ≤ s.cfg.obufCap) : StepEffect s (afterPixel (s.setSchedule l))
  /-- A reset (R124). -/
  | reset (l : List Turn) (turn : (nextTurn s).1 = .reset) : StepEffect s (resetBlock (s.setSchedule l))
  /-- Nothing in the block: an engine without a step, a host statement that writes no register, or a write to a read-only or
  reserved offset (R88, R48, R101). -/
  | quiet (k pc : Nat) (ts : Temps) (l : List Turn) (turn : (nextTurn s).1 ≠ .reset)
      (notPixel : s.busy = true → (nextTurn s).1 = .host) : StepEffect s (s.moveHost k pc ts l)
  /-- A write that BUSY drops (R98). -/
  | dropped (l : List Turn) (off : Nat) (v : Word) (turn : (nextTurn s).1 = .host) (busy : s.busy = true)
      (write : nextRegWrite s = some (off, v)) : StepEffect s (dropWrite (s.setSchedule l).advance)
  /-- A parameter write (R97). -/
  | param (l : List Turn) (r : Reg) (v : Word) (turn : (nextTurn s).1 = .host) (busy : s.busy = false)
      (isParam : r.isParam = true) (write : nextRegWrite s = some (r.offset, v)) :
      StepEffect s (writeParam r v (s.setSchedule l).advance)
  /-- The take of a CMD write (R99). -/
  | take (l : List Turn) (w : Word) (t : State) (turn : (nextTurn s).1 = .host) (busy : s.busy = false)
      (write : nextRegWrite s = some (Reg.cmd.offset, w)) (took : takeCommand w (s.setSchedule l).advance = .next t) :
      StepEffect s t

/-- A register write of the host's turn is ignored, dropped, stored or taken (R97 to R101). -/
theorem stepEffect_of_hostWrite {s t : State} {l : List Turn} {off : Nat} {v : Word} (turn : (nextTurn s).1 = .host)
    (write : nextRegWrite s = some (off, v)) (hw : hostWrite off v (s.setSchedule l).advance = .next t) :
    StepEffect s t := by
  rcases hostWrite_cases off v (s.setSchedule l).advance with
    he | ⟨busy, he⟩ | ⟨busy, r, rfl, isParam, he⟩ | ⟨busy, rfl, he⟩
  · cases he.symm.trans hw
    exact .quiet s.draws (s.hpc + 1) s.temps l (by rw [turn]; decide) fun _ => turn
  · cases he.symm.trans hw
    exact .dropped l off v turn busy write
  · cases he.symm.trans hw
    exact .param l r v turn busy isParam write
  · exact .take l v t turn busy write (he.symm.trans hw)

/-- Every step that answers has one of the six effects. -/
theorem step_effect {s t : State} (h : step s = .next t) : StepEffect s t := by
  obtain ⟨l, -, ⟨turn, busy, hpixel⟩ | ⟨turn, idle, rfl⟩ | ⟨turn, rfl⟩ | ⟨turn, ⟨k, pc, ts, rfl⟩, -⟩ |
    ⟨turn, off, v, write, hw⟩⟩ := step_cases h
  · have fits : s.waddr + 4 ≤ s.cfg.obufCap := (pixelStep_cases hpixel).1
    cases (pixelStep_of_fits (s := s.setSchedule l) fits).symm.trans hpixel
    exact .pixel l turn busy fits
  · exact .quiet s.draws s.hpc s.temps l (by rw [turn]; decide) fun busy => absurd (busy.symm.trans idle) (by decide)
  · exact .reset l turn
  · exact .quiet k pc ts l (by rw [turn]; decide) fun _ => turn
  · exact stepEffect_of_hostWrite turn write hw

/-! ### What a take writes, by its command (R73 to R75, R84, R86, R111) -/

theorem takenCommand_of_decode {s : State} {w : Word} {i : Instr} (write : nextRegWrite s = some (Reg.cmd.offset, w))
    (busy : s.busy = false) (hdecode : decode w = .ok i) : takenCommand s = some i := by
  simp [takenCommand, takenWord_of_cmdWrite write busy, hdecode]

section takes
variable {w : Word} {s t : State} (h : takeCommand w s = .next t)
include h

/-- A take writes at most STATE, RESULT, LENGTH, STATUS and the iterator. -/
theorem takeCommand_frame :
    t = { s with
      state := t.state, result := t.result, length := t.length, status := t.status, x := t.x, y := t.y,
      waddr := t.waddr } := by
  rcases takeCommand_cases h with
    ⟨-, rfl⟩ | ⟨i, v, r, -, -, -, rfl⟩ | ⟨-, -, rfl⟩ | ⟨-, -, -, rfl⟩ | ⟨-, -, -, rfl⟩
  · rfl
  · rfl
  · rfl
  · rfl
  · rw [acceptGenerate_frame]
    rfl

/-- A take that is no GENERATE writes at most STATE, RESULT and STATUS, and leaves BUSY. -/
theorem takeCommand_frame_of_ne_generate (hdecode : decode w ≠ .ok .generate) :
    t = { s with state := t.state, result := t.result, status := t.status } ∧ t.busy = s.busy := by
  rcases takeCommand_cases h with
    ⟨-, rfl⟩ | ⟨i, v, r, -, -, -, rfl⟩ | ⟨hg, -, rfl⟩ | ⟨hg, -, -, rfl⟩ | ⟨hg, -, -, rfl⟩
  · exact ⟨rfl, busy_of_flags (flags_reportIllegal s)⟩
  · exact ⟨rfl, busy_of_flags (flags_lcgTaken s v r)⟩
  · exact absurd hg hdecode
  · exact absurd hg hdecode
  · exact absurd hg hdecode

/-- The take of an illegal word leaves STATE (R61). -/
theorem takeCommand_state (hillegal : ∀ i, decode w ≠ .ok i) : t.state = s.state := by
  rcases takeCommand_cases h with
    ⟨-, rfl⟩ | ⟨i, v, r, hi, -, -, -⟩ | ⟨hg, -, -⟩ | ⟨hg, -, -, -⟩ | ⟨hg, -, -, -⟩
  · rfl
  · exact absurd hi (hillegal i)
  · exact absurd hg (hillegal _)
  · exact absurd hg (hillegal _)
  · exact absurd hg (hillegal _)

/-- Of all takes only those of NEXT_WORD and NEXT_BYTE write RESULT (R22). -/
theorem takeCommand_result :
    t.result = s.result ∨ decode w = .ok .nextWord ∨ decode w = .ok .nextByte := by
  rcases takeCommand_cases h with
    ⟨-, rfl⟩ | ⟨i, v, r, hdecode, rfl | rfl | rfl, hr, rfl⟩ | ⟨-, -, rfl⟩ | ⟨-, -, -, rfl⟩ | ⟨-, -, -, rfl⟩
  · exact .inl rfl
  · exact .inl (hr rfl)
  · exact .inr (.inl hdecode)
  · exact .inr (.inr hdecode)
  · exact .inl rfl
  · exact .inl rfl
  · rw [acceptGenerate_frame]
    exact .inl rfl

/-- The take of a GENERATE clears LENGTH, whichever its outcome (R84, R86). -/
theorem takeCommand_generate_length (hdecode : decode w = .ok .generate) : t.length = 0#64 := by
  rcases takeCommand_cases h with
    ⟨⟨e, he⟩, -⟩ | ⟨i, v, r, hi, hlcg, -, -⟩ | ⟨-, -, rfl⟩ | ⟨-, -, -, rfl⟩ | ⟨-, -, -, rfl⟩
  · cases he.symm.trans hdecode
  · cases hi.symm.trans hdecode
    exact absurd hlcg (by decide)
  · rfl
  · rfl
  · rw [acceptGenerate_frame]

end takes

end Sys2Proof.Machine
end

section
/-! The invariant (10_state.md R26, R28; 41_buffer_writer.md R85, R91, R93, R95): it holds at power-up, and each of the six
effects of a step keeps it. -/

namespace Sys2Proof.Machine

/-! ### STATUS (R26) -/

/-- The STATUS invariants, as a condition on the flags. -/
theorem statusInv_of_flags {s : State} {b d e o : Bool} {c : Byte} (hflags : s.flags = (b, d, e, o, c))
    (busyClean : b = true → d = false ∧ e = false ∧ c = 0#8) (errIffCode : e = true ↔ c ≠ 0#8)
    (errDone : e = true → d = true) (reserved : s.status &&& 0xFFFF00F0#32 = 0#32) : StatusInv s.status := by
  simp only [State.flags, Prod.mk.injEq] at hflags
  obtain ⟨rfl, rfl, rfl, rfl, rfl⟩ := hflags
  exact ⟨busyClean, errIffCode, errDone, reserved⟩

/-- A dropped write sets OVR, of which the STATUS invariants say nothing (R98). -/
theorem statusInv_dropWrite {s : State} (h : StatusInv s.status) : StatusInv (dropWrite s).status :=
  statusInv_of_flags (flags_dropWrite s) h.busyClean h.errIffCode h.errDone
    ((reserved_withOvr s.status true).trans h.reserved)

/-- A take from BUSY = 0 leaves one of the rows of R123. -/
theorem statusInv_takeCommand {w : Word} {s t : State} (hbusy : s.busy = false)
    (hreserved : s.status &&& 0xFFFF00F0#32 = 0#32) (h : takeCommand w s = .next t) : StatusInv t.status := by
  have hres := (takeCommand_reserved h).trans hreserved
  rcases takeCommand_cases h with
    ⟨-, rfl⟩ | ⟨i, v, r, -, -, -, rfl⟩ | ⟨-, -, rfl⟩ | ⟨-, -, -, rfl⟩ | ⟨-, -, -, rfl⟩
  · exact statusInv_of_flags (flags_reportIllegal s) (by simp [hbusy]) (by decide) (by decide) hres
  · exact statusInv_of_flags (flags_lcgTaken s v r) (by simp [hbusy]) (by decide) (by decide) hres
  · exact statusInv_of_flags (flags_reportSizeError .sizeOverflow s) (by simp [hbusy]) (by decide) (by decide) hres
  · exact statusInv_of_flags (flags_reportSizeError .noCapacity s) (by simp [hbusy]) (by decide) (by decide) hres
  · exact statusInv_of_flags (flags_takeAccept s) (by simp) (by decide) (fun he => absurd he (by decide)) hres

/-- The completion of a GENERATE sets DONE in place of BUSY, with no error (R90). -/
theorem statusInv_afterPixel {s : State} (h : StatusInv s.status) (hbusy : s.busy = true) :
    StatusInv (afterPixel s).status := by
  by_cases hlast : nextY s = s.height
  · obtain ⟨-, herr, hcode⟩ := h.busyClean hbusy
    refine statusInv_of_flags (flags_afterPixel_of_last hlast) (fun hb => absurd hb (by decide)) h.errIffCode (fun _ => rfl) ?_
    exact (reserved_afterPixel s).trans h.reserved
  · rw [afterPixel_status, if_neg hlast]
    exact h

/-! ### Steps that write no pixel -/

/-- The invariant moves along a step that writes no OBUF byte, once STATUS and, while BUSY = 1, the iterator are seen to. -/
theorem Inv.of_same_obuf {s t : State} (h : Inv s) (hcfg : t.cfg = s.cfg) (hobuf : t.obuf = s.obuf)
    (hstatus : StatusInv t.status) (hwaddr : t.waddr = s.waddr ∨ t.waddr = 0)
    (hlength : t.length = s.length ∨ t.length = 0#64) (hbusy : t.busy = true → BusyInv t) : Inv t where
  cfgWf := hcfg ▸ h.cfgWf
  obufWf := hobuf ▸ h.obufWf
  obufInside := by rw [hcfg, hobuf]; exact h.obufInside
  status := hstatus
  waddrLe := by
    rcases hwaddr with hw | hw
    · rw [hw, hcfg]; exact h.waddrLe
    · rw [hw]; exact Nat.zero_le _
  lengthLe := by
    rcases hlength with hl | hl
    · rw [hl, hcfg]; exact h.lengthLe
    · rw [hl]; exact Nat.zero_le _
  lengthQuads := by
    rcases hlength with hl | hl
    · rw [hl]; exact h.lengthQuads
    · rw [hl]; exact Nat.dvd_zero 4
  resultQuads := by
    rcases hlength with hl | hl
    · rw [hl, hobuf]; exact h.resultQuads
    · rw [hl]; exact fun p hp => absurd hp (Nat.not_lt_zero _)
  busy := hbusy

/-- The iterator invariant speaks of the block alone. -/
theorem BusyInv.moveHost {s : State} (h : BusyInv s) (k pc : Nat) (ts : Temps) (l : List Turn) :
    BusyInv (s.moveHost k pc ts l) :=
  ⟨h.xLt, h.yLt, h.waddrEq, h.stateEq, h.sizeFits, h.noResult, h.written⟩

/-- The invariant speaks of the block alone. -/
theorem Inv.moveHost {s : State} (h : Inv s) (k pc : Nat) (ts : Temps) (l : List Turn) : Inv (s.moveHost k pc ts l) :=
  h.of_same_obuf rfl rfl h.status (.inl rfl) (.inl rfl) fun hb => (h.busy hb).moveHost k pc ts l

/-- Reset clears LENGTH and WADDR and leaves BUSY = 0 (R124). -/
theorem Inv.resetBlock {s : State} (h : Inv s) : Inv (resetBlock s) :=
  h.of_same_obuf rfl rfl (statusInv_of_flags (flags_resetBlock s) (by decide) (by decide) (by decide) BitVec.zero_and)
    (.inr rfl) (.inr rfl) fun hb => absurd ((resetBlock_busy s).symm.trans hb) (by decide)

/-- A dropped write sets OVR alone (R98). -/
theorem Inv.dropWrite {s : State} (h : Inv s) : Inv (dropWrite s) := by
  refine h.of_same_obuf rfl rfl (statusInv_dropWrite h.status) (.inl rfl) (.inl rfl) fun hb => ?_
  have hbusy : BusyInv s := h.busy ((busy_of_flags (flags_dropWrite s)).symm.trans hb)
  exact ⟨hbusy.xLt, hbusy.yLt, hbusy.waddrEq, hbusy.stateEq, hbusy.sizeFits, hbusy.noResult, hbusy.written⟩

/-- A parameter is stored only while BUSY = 0, where the iterator invariant does not bind it (R97). -/
theorem Inv.writeParam {s : State} (h : Inv s) (hidle : s.busy = false) (r : Reg) (v : Word) :
    Inv (writeParam r v s) := by
  have hbusy : (Machine.writeParam r v s).busy = s.busy := congrArg statusBusy (writeParam_status r v s)
  refine h.of_same_obuf ?_ ?_ ?_ (.inl ?_) (.inl ?_) fun hb => absurd (hidle.symm.trans (hbusy.symm.trans hb)) (by decide)
  · cases r <;> rfl
  · cases r <;> rfl
  · rw [writeParam_status]
    exact h.status
  · cases r <;> rfl
  · cases r <;> rfl

/-- An accepted GENERATE with a pixel to write starts at pixel 0 (R86). -/
theorem busyInv_acceptGenerate {s : State} (hfits : size s ≤ s.cfg.obufCap) (hpixels : npix s ≠ 0) :
    BusyInv (acceptGenerate s) := by
  obtain ⟨hwidth, hheight⟩ : s.width.toNat ≠ 0 ∧ s.height.toNat ≠ 0 := Nat.mul_ne_zero_iff.1 hpixels
  have hindex : pixIndex (acceptGenerate s) = 0 := by
    rw [acceptGenerate_frame]
    simp [pixIndex]
  constructor
  · rw [acceptGenerate_frame]
    exact Nat.pos_of_ne_zero hwidth
  · rw [acceptGenerate_frame]
    exact Nat.pos_of_ne_zero hheight
  · rw [hindex, acceptGenerate_frame]
  · rw [hindex, acceptGenerate_frame]
    rfl
  · rw [acceptGenerate_frame]
    exact hfits
  · rw [acceptGenerate_frame]
  · rw [hindex]
    exact fun p hp => absurd hp (Nat.not_lt_zero p)

/-- A take from BUSY = 0 ends with BUSY = 1 only where it has accepted a GENERATE with a pixel to write (R99). -/
theorem takeCommand_of_busy {w : Word} {s t : State} (hidle : s.busy = false) (h : takeCommand w s = .next t)
    (hbusy : t.busy = true) :
    size s ≤ s.cfg.obufCap ∧ npix s ≠ 0 ∧ t = acceptGenerate (clearRecord s) := by
  rcases takeCommand_cases h with
    ⟨-, rfl⟩ | ⟨i, v, r, -, -, -, rfl⟩ | ⟨-, -, rfl⟩ | ⟨-, -, -, rfl⟩ | ⟨-, -, hfits, rfl⟩
  · exact absurd (hidle.symm.trans ((busy_of_flags (flags_reportIllegal s)).symm.trans hbusy)) (by decide)
  · exact absurd (hidle.symm.trans ((busy_of_flags (flags_lcgTaken s v r)).symm.trans hbusy)) (by decide)
  · exact absurd (hidle.symm.trans ((busy_of_flags (flags_reportSizeError .sizeOverflow s)).symm.trans hbusy)) (by decide)
  · exact absurd (hidle.symm.trans ((busy_of_flags (flags_reportSizeError .noCapacity s)).symm.trans hbusy)) (by decide)
  · have hpixels : decide (npix s ≠ 0) = true := (busy_of_flags (flags_takeAccept s)).symm.trans hbusy
    exact ⟨hfits, of_decide_eq_true hpixels, rfl⟩

/-- A take from BUSY = 0 keeps the invariant: LENGTH and WADDR are left or 0, and a GENERATE that starts does so at pixel 0. -/
theorem Inv.takeCommand {w : Word} {s t : State} (h : Inv s) (hidle : s.busy = false)
    (htake : takeCommand w s = .next t) : Inv t := by
  have hframe := takeCommand_frame htake
  have hfields : (t.waddr = s.waddr ∨ t.waddr = 0) ∧ (t.length = s.length ∨ t.length = 0#64) := by
    rcases takeCommand_cases htake with
      ⟨-, rfl⟩ | ⟨i, v, r, -, -, -, rfl⟩ | ⟨-, -, rfl⟩ | ⟨-, -, -, rfl⟩ | ⟨-, -, -, rfl⟩
    · exact ⟨.inl rfl, .inl rfl⟩
    · exact ⟨.inl rfl, .inl rfl⟩
    · exact ⟨.inl rfl, .inr rfl⟩
    · exact ⟨.inl rfl, .inr rfl⟩
    · rw [acceptGenerate_frame]
      exact ⟨.inr rfl, .inr rfl⟩
  obtain ⟨hwaddr, hlength⟩ := hfields
  refine h.of_same_obuf (by rw [hframe]) (by rw [hframe]) (statusInv_takeCommand hidle h.status.reserved htake) hwaddr
    hlength fun hbusy => ?_
  obtain ⟨hfits, hpixels, rfl⟩ := takeCommand_of_busy hidle htake hbusy
  exact busyInv_acceptGenerate (s := clearRecord s) hfits hpixels

/-! ### The pixel step (R89 to R91) -/

/-- The quads of a closed form are quads. -/
theorem pixelsDone_quads {m : Memory} {seed : Word} {k : Nat} (h : pixelsDone m seed k) (p : Nat) (hp : 4 * p < 4 * k) :
    ∃ n, quadAt m (4 * p) n :=
  ⟨_, h p (Nat.lt_of_mul_lt_mul_left hp)⟩

namespace BusyInv

variable {s : State} (h : BusyInv s)
include h

/-- The pixel step writes the noise byte of its pixel above the quads already written (R91). -/
theorem pixelsDone_nextObuf : pixelsDone (nextObuf s) s.seed (pixIndex s + 1) := by
  intro p hp
  rw [nextObuf, h.waddrEq]
  rcases Nat.lt_succ_iff_lt_or_eq.1 hp with hold | rfl
  · exact quadAt_writeLE_other _ (h.written p hold) (by omega)
  · rw [h.stateEq, noiseByte, lcgIter_succ]
    exact quadAt_writeLE ..

/-- The iterator reaches row H exactly past the last pixel (R90). -/
theorem nextY_eq_height_iff : nextY s = s.height ↔ pixIndex s + 1 = npix s := by
  refine ⟨fun hy => ?_, fun hlast => (h.next_of_last hlast).2⟩
  have hnext := h.next_pixIndex
  have hlt := h.pixIndex_lt
  rw [hy, Nat.mul_comm, ← npix] at hnext
  omega

/-- Before the last pixel the iterator stays inside the image (R28). -/
theorem nextY_lt (hmore : nextY s ≠ s.height) : (nextY s).toNat < s.height.toNat := by
  have hle : (nextY s).toNat ≤ s.height.toNat := by
    have hy := h.yLt
    unfold nextY
    split
    · rw [toNat_add_one_of_lt hy]
      exact hy
    · exact hy.le
  exact Nat.lt_of_le_of_ne hle fun he => hmore (BitVec.eq_of_toNat_eq he)

theorem waddr_afterPixel (hcfg : s.cfg.wf) : (afterPixel s).waddr = 4 * (pixIndex s + 1) := by
  rw [afterPixel_waddr (h.waddr_no_wrap hcfg), h.waddrEq, Nat.mul_succ]

theorem state_afterPixel : (afterPixel s).state = lcgIter (pixIndex s + 1) s.seed := by
  rw [afterPixel_state, h.stateEq, lcgIter_succ]

/-- Every pixel but the last leaves the iterator invariant at the next pixel (R28, R89). -/
theorem busyInv_afterPixel (hcfg : s.cfg.wf) (hmore : nextY s ≠ s.height) : BusyInv (afterPixel s) where
  xLt := by
    rw [afterPixel_x, afterPixel_width]
    exact h.nextX_lt
  yLt := by
    rw [afterPixel_y, afterPixel_frame]
    exact h.nextY_lt hmore
  waddrEq := by rw [h.waddr_afterPixel hcfg, h.pixIndex_afterPixel]
  stateEq := by
    rw [h.state_afterPixel, h.pixIndex_afterPixel, afterPixel_frame]
  sizeFits := by
    rw [afterPixel_frame]
    exact h.sizeFits
  noResult := by
    rw [afterPixel_length, if_neg hmore]
    exact h.noResult
  written := by
    rw [afterPixel_obuf, h.pixIndex_afterPixel, afterPixel_frame]
    exact h.pixelsDone_nextObuf

/-- The length after a pixel: still 0, or after the last pixel the size of the image, all of it written (R90). -/
theorem length_afterPixel (hcfg : s.cfg.wf) :
    (afterPixel s).length.toNat = if nextY s = s.height then 4 * (pixIndex s + 1) else 0 := by
  rw [afterPixel_length]
  split
  · next hy => rw [toNat_ofNat_size hcfg h.sizeFits, h.nextY_eq_height_iff.1 hy, size]
  · rw [h.noResult]
    rfl

end BusyInv

theorem afterPixel_cfg (s : State) : (afterPixel s).cfg = s.cfg := by rw [afterPixel_frame]

/-- A pixel step keeps the invariant: its quad lies in the storage of OBUF, and LENGTH reports only what is written. -/
theorem Inv.afterPixel {s : State} (h : Inv s) (hbusy : s.busy = true) : Inv (afterPixel s) := by
  have hb := h.busy hbusy
  have hfits := hb.quad_fits
  have hwaddr := hb.waddr_afterPixel h.cfgWf
  have hlength := hb.length_afterPixel h.cfgWf
  have hquad : 4 * (pixIndex s + 1) ≤ s.cfg.obufCap := by
    rw [hb.waddrEq] at hfits
    exact hfits
  constructor
  case cfgWf =>
    rw [afterPixel_cfg]
    exact h.cfgWf
  case obufWf =>
    rw [afterPixel_obuf]
    exact Memory.writeLE_wf h.obufWf ..
  case obufInside =>
    intro c hc
    rw [afterPixel_obuf] at hc
    rw [afterPixel_cfg]
    rcases Memory.mem_writeLE hc with hold | ⟨-, hnew⟩
    · exact h.obufInside c hold
    · exact Nat.lt_of_lt_of_le hnew hfits
  case status => exact statusInv_afterPixel h.status hbusy
  case waddrLe =>
    rw [hwaddr, afterPixel_cfg]
    exact hquad
  case lengthLe =>
    rw [hlength, afterPixel_cfg]
    split
    · exact hquad
    · exact Nat.zero_le _
  case lengthQuads =>
    rw [hlength]
    split
    · exact Nat.dvd_mul_right ..
    · exact Nat.dvd_zero 4
  case resultQuads =>
    intro p hp
    rw [hlength] at hp
    split at hp
    · rw [afterPixel_obuf]
      exact pixelsDone_quads hb.pixelsDone_nextObuf p hp
    · exact absurd hp (Nat.not_lt_zero _)
  case busy =>
    intro hstill
    refine hb.busyInv_afterPixel h.cfgWf fun hlast => ?_
    exact absurd ((busy_of_flags (flags_afterPixel_of_last hlast)).symm.trans hstill) (by decide)

/-! ### Every step, and power-up -/

/-- Settles O49: each effect of a step keeps the invariant; the host's side of the state has no part in it. -/
theorem everyStepKeepsTheInvariant : Obligations.EveryStepKeepsTheInvariant := by
  intro s t hinv hstep
  cases step_effect hstep with
  | pixel l turn busy fits => exact (hinv.moveHost s.draws s.hpc s.temps l).afterPixel busy
  | reset l turn => exact (hinv.moveHost s.draws s.hpc s.temps l).resetBlock
  | quiet k pc ts l turn notPixel => exact hinv.moveHost k pc ts l
  | dropped l off v turn busy write => exact (hinv.moveHost s.draws (s.hpc + 1) s.temps l).dropWrite
  | param l r v turn busy isParam write => exact (hinv.moveHost s.draws (s.hpc + 1) s.temps l).writeParam busy r v
  | take l w t turn busy write took => exact (hinv.moveHost s.draws (s.hpc + 1) s.temps l).takeCommand busy took

/-- Every choice of the two parameters is legal (R5, R6). -/
theorem Config.params_wf : Config.params.wf := by
  have haddrW := Nat.mod_lt Config.addrWChoice (by decide : 61 > 0)
  refine ⟨Nat.le_add_right .., ?_, Nat.le_of_lt_succ (Nat.mod_lt _ (Nat.succ_pos _))⟩
  show 2 + Config.addrWChoice % 61 ≤ 62
  omega

/-- Settles O48: at power-up OBUF is empty and every register 0, under legal parameters. -/
theorem invariantHoldsAtPowerUp : Obligations.InvariantHoldsAtPowerUp where
  cfgWf := Config.params_wf
  obufWf := List.Pairwise.nil
  obufInside := nofun
  status := ⟨by decide, by decide, by decide, by decide⟩
  waddrLe := Nat.zero_le _
  lengthLe := Nat.zero_le _
  lengthQuads := Nat.dvd_zero 4
  resultQuads := fun _ hp => absurd hp (Nat.not_lt_zero _)
  busy := fun hb => absurd hb (by decide)

end Sys2Proof.Machine
end

section
/-! Who writes what (10_state.md R17 to R23, R27, R33; 20_memory.md R41, R48; 60_exceptions.md R116, R122; 41_buffer_writer.md
R96): each field's writers, read off the six effects of a step. -/

namespace Sys2Proof.Machine

/-! ### What each effect leaves of a field -/

/-- The quad of a pixel step is the only storage it writes (R89, R133). -/
theorem afterPixel_read?_of_outside {s : State} {a : Nat} (h : a < s.waddr ∨ s.waddr + 4 ≤ a) :
    (afterPixel s).obuf.read? a = s.obuf.read? a := by
  rw [afterPixel_obuf]
  exact read?_writeQuad_other _ _ _ _ h

theorem takeCommand_obuf {w : Word} {s t : State} (h : takeCommand w s = .next t) : t.obuf = s.obuf := by
  rw [takeCommand_frame h]

/-- The parameter registers are the only state a parameter write touches (R97). -/
theorem writeParam_frame (r : Reg) (v : Word) (s : State) :
    writeParam r v s = { s with
      width := (writeParam r v s).width, height := (writeParam r v s).height,
      intensity := (writeParam r v s).intensity, seed := (writeParam r v s).seed } := by
  cases r <;> rfl

/-- A pixel step leaves ERR and ERRCODE (R90). -/
theorem afterPixel_err_errcode (s : State) : (afterPixel s).err = s.err ∧ (afterPixel s).errcode = s.errcode := by
  rw [State.err, State.errcode, afterPixel_status]
  split
  · simp [State.err, State.errcode]
  · exact ⟨rfl, rfl⟩

/-- A dropped write leaves every flag but OVR (R98). -/
theorem dropWrite_err_errcode (s : State) : (dropWrite s).err = s.err ∧ (dropWrite s).errcode = s.errcode :=
  ⟨err_of_flags (flags_dropWrite s), errcode_of_flags (flags_dropWrite s)⟩

/-- A take that writes LENGTH is a GENERATE's, and clears it (R23). -/
theorem takeCommand_length {w : Word} {s t : State} (h : takeCommand w s = .next t) :
    t.length = s.length ∨ (decode w = .ok .generate ∧ t.length = 0#64) := by
  by_cases hdecode : decode w = .ok .generate
  · exact .inr ⟨hdecode, takeCommand_generate_length h hdecode⟩
  · rw [(takeCommand_frame_of_ne_generate h hdecode).1]
    exact .inl rfl

/-- LENGTH after a pixel step changes only where BUSY ends (R90). -/
theorem afterPixel_length_cases (s : State) :
    (afterPixel s).length = s.length
      ∨ ((afterPixel s).busy = false ∧ (afterPixel s).length = BitVec.ofNat 64 (size s)) := by
  by_cases hlast : nextY s = s.height
  · refine .inr ⟨busy_of_flags (flags_afterPixel_of_last hlast), ?_⟩
    rw [afterPixel_length, if_pos hlast]
  · rw [afterPixel_length, if_neg hlast]
    exact .inl rfl

/-! ### The writers of each field -/

/-- Settles O51: of the six effects only the pixel step writes OBUF, and only its quad. -/
theorem onlyPixelStepsWriteObuf : Obligations.OnlyPixelStepsWriteObuf := by
  intro s t a hstep hchange
  cases step_effect hstep with
  | pixel l turn busy fits =>
    by_contra hout
    refine hchange (afterPixel_read?_of_outside (s := s.setSchedule l) ?_)
    show a < s.waddr ∨ s.waddr + 4 ≤ a
    by_contra hin
    exact hout ⟨turn, busy, by omega, by omega⟩
  | reset l turn => exact absurd rfl hchange
  | quiet k pc ts l turn notPixel => exact absurd rfl hchange
  | dropped l off v turn busy write => exact absurd rfl hchange
  | param l r v turn busy isParam write =>
    rw [writeParam_frame] at hchange
    exact absurd rfl hchange
  | take l w t turn busy write took =>
    rw [takeCommand_obuf took] at hchange
    exact absurd rfl hchange

/-- Settles O52: a take that writes STATE is of a legal word; of the others only the pixel step and reset write it. -/
theorem onlyCommandsAndPixelStepsWriteState : Obligations.OnlyCommandsAndPixelStepsWriteState := by
  intro s t hstep hchange
  cases step_effect hstep with
  | pixel l turn busy fits => exact .inr (.inl ⟨turn, busy⟩)
  | reset l turn => exact .inr (.inr turn)
  | quiet k pc ts l turn notPixel => exact absurd rfl hchange
  | dropped l off v turn busy write => exact absurd rfl hchange
  | param l r v turn busy isParam write =>
    rw [writeParam_frame] at hchange
    exact absurd rfl hchange
  | take l w t turn busy write took =>
    cases hdecode : decode w with
    | ok i => exact .inl (by rw [takenCommand_of_decode write busy hdecode, Option.isSome_some])
    | error e => exact absurd (takeCommand_state took fun i hi => by cases hdecode.symm.trans hi) hchange

/-- A step without reset leaves the four parameters, or it is a parameter write that arrives while BUSY = 0. -/
theorem step_parameters {s t : State} (hstep : step s = .next t) (hreset : (nextTurn s).1 ≠ .reset) :
    (t.width = s.width ∧ t.height = s.height ∧ t.seed = s.seed ∧ t.intensity = s.intensity) ∨
    (s.busy = false ∧ ∃ r v l, nextRegWrite s = some (Reg.offset r, v) ∧ r.isParam = true
      ∧ t = writeParam r v (s.setSchedule l).advance) := by
  cases step_effect hstep with
  | pixel l turn busy fits =>
    rw [afterPixel_frame]
    exact .inl ⟨rfl, rfl, rfl, rfl⟩
  | reset l turn => exact absurd turn hreset
  | quiet k pc ts l turn notPixel => exact .inl ⟨rfl, rfl, rfl, rfl⟩
  | dropped l off v turn busy write => exact .inl ⟨rfl, rfl, rfl, rfl⟩
  | param l r v turn busy isParam write => exact .inr ⟨busy, r, v, l, write, isParam, rfl⟩
  | take l w t turn busy write took =>
    rw [takeCommand_frame took]
    exact .inl ⟨rfl, rfl, rfl, rfl⟩

/-- Settles O53: a parameter write stores its own parameter alone, with the value written. -/
theorem parametersChangeOnlyByHostWrites : Obligations.ParametersChangeOnlyByHostWrites := by
  intro s t hstep hreset
  rcases step_parameters hstep hreset with ⟨hw, hh, hs, hi⟩ | ⟨busy, r, v, l, write, isParam, rfl⟩
  · exact ⟨fun h => absurd hw h, fun h => absurd hh h, fun h => absurd hs h, fun h => absurd hi h⟩
  · cases r with
    | width =>
      exact ⟨fun _ => ⟨busy, write⟩, fun h => absurd rfl h, fun h => absurd rfl h, fun h => absurd rfl h⟩
    | height =>
      exact ⟨fun h => absurd rfl h, fun _ => ⟨busy, write⟩, fun h => absurd rfl h, fun h => absurd rfl h⟩
    | seed =>
      exact ⟨fun h => absurd rfl h, fun h => absurd rfl h, fun _ => ⟨busy, write⟩, fun h => absurd rfl h⟩
    | intensity =>
      exact ⟨fun h => absurd rfl h, fun h => absurd rfl h, fun h => absurd rfl h, fun _ => ⟨busy, v, write, rfl⟩⟩
    | cmd | status | state | result | lengthLo | lengthHi | pixX | pixY => cases isParam

/-- Settles O54: of the takes only those of the two draws write RESULT, and of the other effects only reset. -/
theorem onlyTheDrawCommandsWriteResult : Obligations.OnlyTheDrawCommandsWriteResult := by
  intro s t hstep hchange
  cases step_effect hstep with
  | pixel l turn busy fits =>
    rw [afterPixel_frame] at hchange
    exact absurd rfl hchange
  | reset l turn => exact .inr (.inr turn)
  | quiet k pc ts l turn notPixel => exact absurd rfl hchange
  | dropped l off v turn busy write => exact absurd rfl hchange
  | param l r v turn busy isParam write =>
    rw [writeParam_frame] at hchange
    exact absurd rfl hchange
  | take l w t turn busy write took =>
    rcases takeCommand_result took with hkept | hword | hbyte
    · exact absurd hkept hchange
    · exact .inl (takenCommand_of_decode write busy hword)
    · exact .inr (.inl (takenCommand_of_decode write busy hbyte))

/-- Settles O55: LENGTH changes at a GENERATE's take, at its completion and at reset; the iterator also at each pixel. -/
theorem onlyGenerateWritesLengthAndIterator : Obligations.OnlyGenerateWritesLengthAndIterator := by
  intro s t hstep
  cases step_effect hstep with
  | pixel l turn busy fits =>
    refine ⟨fun hchange => ?_, fun _ => .inr (.inl ⟨turn, busy⟩)⟩
    rcases afterPixel_length_cases (s.setSchedule l) with hkept | ⟨hdone, hsize⟩
    · exact absurd hkept hchange
    · exact .inr (.inl ⟨turn, busy, hdone, hsize⟩)
  | reset l turn => exact ⟨fun _ => .inr (.inr ⟨turn, rfl⟩), fun _ => .inr (.inr turn)⟩
  | quiet k pc ts l turn notPixel => exact ⟨fun hchange => absurd rfl hchange, fun hchange => by simp at hchange⟩
  | dropped l off v turn busy write =>
    exact ⟨fun hchange => absurd rfl hchange, fun hchange => by simp [dropWrite] at hchange⟩
  | param l r v turn busy isParam write =>
    rw [writeParam_frame]
    exact ⟨fun hchange => absurd rfl hchange, fun hchange => by simp at hchange⟩
  | take l w t turn busy write took =>
    refine ⟨fun hchange => ?_, fun hchange => ?_⟩
    · rcases takeCommand_length took with hkept | ⟨hdecode, hzero⟩
      · exact absurd hkept hchange
      · exact .inl ⟨takenCommand_of_decode write busy hdecode, hzero⟩
    · by_cases hdecode : decode w = .ok .generate
      · exact .inl (takenCommand_of_decode write busy hdecode)
      · rw [(takeCommand_frame_of_ne_generate took hdecode).1] at hchange
        simp at hchange

/-- Settles O43: the record of an error is written by a take and by reset alone. -/
theorem errorRecordStaysUntilTheNextTake : Obligations.ErrorRecordStaysUntilTheNextTake := by
  intro s t hstep hnotake hreset
  cases step_effect hstep with
  | pixel l turn busy fits => exact afterPixel_err_errcode (s.setSchedule l)
  | reset l turn => exact absurd turn hreset
  | quiet k pc ts l turn notPixel => exact ⟨rfl, rfl⟩
  | dropped l off v turn busy write => exact dropWrite_err_errcode (s.setSchedule l).advance
  | param l r v turn busy isParam write =>
    rw [writeParam_frame]
    exact ⟨rfl, rfl⟩
  | take l w t turn busy write took =>
    rw [takenWord_of_cmdWrite write busy] at hnotake
    cases hnotake

/-- Settles O56: with BUSY = 0 there is no pixel step and no dropped write, and a take that is no GENERATE leaves LENGTH,
BUSY and OBUF. -/
theorem resultStaysUntilTheNextGenerate : Obligations.ResultStaysUntilTheNextGenerate := by
  intro s t hstep hidle hnogen hreset
  cases step_effect hstep with
  | pixel l turn busy fits => exact absurd (hidle.symm.trans busy) (by decide)
  | reset l turn => exact absurd turn hreset
  | quiet k pc ts l turn notPixel => exact ⟨rfl, hidle, fun _ => rfl⟩
  | dropped l off v turn busy write => exact absurd (hidle.symm.trans busy) (by decide)
  | param l r v turn busy isParam write =>
    rw [writeParam_frame]
    exact ⟨rfl, hidle, fun _ => rfl⟩
  | take l w t turn busy write took =>
    have hdecode : decode w ≠ .ok .generate := fun hd => hnogen (takenCommand_of_decode write busy hd)
    obtain ⟨hframe, hbusy⟩ := takeCommand_frame_of_ne_generate took hdecode
    exact ⟨by rw [hframe]; rfl, hbusy.trans hidle, fun a => by rw [takeCommand_obuf took]; rfl⟩

/-- Settles O57: without a register write, a pixel step or a reset, what is left is the quiet step. -/
theorem blockChangesOnlyByWriteEngineOrReset : Obligations.BlockChangesOnlyByWriteEngineOrReset := by
  intro s t hstep hnowrite hreset hnopixel
  cases step_effect hstep with
  | pixel l turn busy fits => exact absurd turn (hnopixel busy)
  | reset l turn => exact absurd turn hreset
  | quiet k pc ts l turn notPixel => rfl
  | dropped l off v turn busy write => cases hnowrite.symm.trans write
  | param l r v turn busy isParam write => cases hnowrite.symm.trans write
  | take l w t turn busy write took => cases hnowrite.symm.trans write

/-- Settles O58: no effect writes the parameters or the script. -/
theorem parametersOfTheBlockAreFixed : Obligations.ParametersOfTheBlockAreFixed := by
  intro s t hstep
  cases step_effect hstep with
  | pixel l turn busy fits =>
    rw [afterPixel_frame]
    exact ⟨rfl, rfl⟩
  | reset l turn => exact ⟨rfl, rfl⟩
  | quiet k pc ts l turn notPixel => exact ⟨rfl, rfl⟩
  | dropped l off v turn busy write => exact ⟨rfl, rfl⟩
  | param l r v turn busy isParam write =>
    rw [writeParam_frame]
    exact ⟨rfl, rfl⟩
  | take l w t turn busy write took =>
    rw [takeCommand_frame took]
    exact ⟨rfl, rfl⟩

/-! ### What stops a step (R96, R104) -/

/-- Under the invariant the engine's turn answers: the quad of a running GENERATE lies in the storage of OBUF (R85). -/
theorem engineTurn_next {s : State} (h : Inv s) : ∃ t, engineTurn s = .next t := by
  cases hbusy : s.busy with
  | true => exact ⟨_, engineTurn_of_busy hbusy (h.busy hbusy).quad_fits⟩
  | false => exact ⟨_, engineTurn_of_idle hbusy⟩

/-- The host's turn answers, unless its statement's access is outside the interface. -/
theorem hostTurn_outcome (s : State) :
    (∃ t, hostTurn s = .next t) ∨
      ((∃ r, hostTurn s = .refused r) ∧ ∃ a, (hostStmt s).bind HostStmt.access? = some a ∧ a.wf s.cfg = false) := by
  unfold hostTurn
  cases hostStmt s with
  | none => exact .inl ⟨s, rfl⟩
  | some st => exact execStmt_outcome st s

/-- Settles O50: a reset always answers, the engine's turn answers under the invariant, and the host's is stopped only by
the check of R64. -/
theorem onlyProtocolViolationsStopAStep : Obligations.OnlyProtocolViolationsStopAStep := by
  intro s hinv
  obtain ⟨l, hl⟩ := nextTurn_state s
  rw [step, hl]
  cases hturn : (nextTurn s).1 with
  | host =>
    have haccess : nextAccess s = (hostStmt s).bind HostStmt.access? := by rw [nextAccess, hturn]
    rw [haccess]
    exact hostTurn_outcome (s.setSchedule l)
  | engine => exact .inl (engineTurn_next (hinv.moveHost s.draws s.hpc s.temps l))
  | reset => exact .inl ⟨_, rfl⟩

end Sys2Proof.Machine
end

section
/-! A running GENERATE (41_buffer_writer.md R86 to R96; 70_reset_and_hazards.md R135): what the pixel step that ends it leaves,
and how far it comes under any turns, and where none is scheduled. -/

namespace Sys2Proof.Machine

/-! ### Runs -/

section runs
variable {M : Host.Core} {s t : M.State}

theorem run_succ (h : M.step s = .next t) (k : Nat) : M.run (k + 1) s = M.run k t := by
  rw [Host.Core.run, h]

/-- A run that answers begins with a step that answers. -/
theorem step_of_run_succ {k : Nat} (h : M.run (k + 1) s = .next t) :
    ∃ u, M.step s = .next u ∧ M.run k u = .next t := by
  rw [Host.Core.run] at h
  cases hs : M.step s with
  | next u =>
    rw [hs] at h
    exact ⟨u, rfl, h⟩
  | fault r =>
    rw [hs] at h
    cases h
  | refused r =>
    rw [hs] at h
    cases h

theorem run_add {j : Nat} (h : M.run j s = .next t) (k : Nat) : M.run (j + k) s = M.run k t := by
  induction j generalizing s with
  | zero =>
    injection h with h
    rw [Nat.zero_add, h]
  | succ j ih =>
    obtain ⟨u, hstep, hrun⟩ := step_of_run_succ h
    rw [Nat.succ_add, run_succ hstep, ih hrun]

end runs

/-! ### The completing pixel step (R90, R91) -/

/-- The result of a GENERATE of WIDTH, HEIGHT and SEED of `s` stands in `t` (R90, R91): BUSY has ended with DONE and without
error, LENGTH is the size, every quad is its closed form, and STATE is the one after the last draw. -/
structure Completed (s t : State) : Prop where
  busy : t.busy = false
  done : t.done = true
  err : t.err = false
  length : t.length.toNat = size s
  pixels : pixelsDone t.obuf s.seed (npix s)
  state : t.state = lcgIter (npix s) s.seed

/-- The pixel step that ends BUSY leaves the closed form. -/
theorem completed_afterPixel {s : State} (h : Inv s) (hbusy : s.busy = true) (hlast : nextY s = s.height) :
    Completed s (afterPixel s) := by
  have hb := h.busy hbusy
  have hpixels := hb.nextY_eq_height_iff.1 hlast
  have hflags := flags_afterPixel_of_last hlast
  obtain ⟨-, herr, -⟩ := h.status.busyClean hbusy
  constructor
  case busy => exact busy_of_flags hflags
  case done => exact done_of_flags hflags
  case err => exact (err_of_flags hflags).trans herr
  case length => rw [hb.length_afterPixel h.cfgWf, if_pos hlast, hpixels, size]
  case pixels =>
    rw [afterPixel_obuf, ← hpixels]
    exact hb.pixelsDone_nextObuf
  case state => rw [hb.state_afterPixel, hpixels]

/-- A pixel step that is not the last leaves BUSY = 1. -/
theorem busy_afterPixel_of_more {s : State} (hmore : nextY s ≠ s.height) : (afterPixel s).busy = s.busy :=
  congrArg statusBusy ((afterPixel_status s).trans (if_neg hmore))

/-! ### A job that has come to a pixel -/

/-- The GENERATE of `s` is running in `u`, with pixel `p` the next to be written. -/
structure Running (s u : State) (p : Nat) : Prop where
  inv : Inv u
  busy : u.busy = true
  index : pixIndex u = p
  width : u.width = s.width
  height : u.height = s.height
  seed : u.seed = s.seed

namespace Running

variable {s u : State} {p : Nat}

theorem npix_eq (h : Running s u p) : npix u = npix s := by rw [npix, h.width, h.height, npix]

theorem size_eq (h : Running s u p) : size u = size s := by rw [size, h.npix_eq, size]

theorem lt_npix (h : Running s u p) : p < npix s := by
  rw [← h.index, ← h.npix_eq]
  exact (h.inv.busy h.busy).pixIndex_lt

/-- What completes in the running state completes for the state the job began in. -/
theorem completed {t : State} (h : Running s u p) (hc : Completed u t) : Completed s t where
  busy := hc.busy
  done := hc.done
  err := hc.err
  length := hc.length.trans h.size_eq
  pixels := by
    rw [← h.seed, ← h.npix_eq]
    exact hc.pixels
  state := by rw [hc.state, h.npix_eq, h.seed]

/-- A pixel step brings the job to the next pixel, or completes it after the last one. -/
theorem afterPixel (h : Running s u p) :
    (p + 1 < npix s ∧ Running s (afterPixel u) (p + 1)) ∨ (p + 1 = npix s ∧ Completed s (afterPixel u)) := by
  have hb := h.inv.busy h.busy
  by_cases hlast : nextY u = u.height
  · refine .inr ⟨?_, h.completed (completed_afterPixel h.inv h.busy hlast)⟩
    rw [← h.index, ← h.npix_eq]
    exact hb.nextY_eq_height_iff.1 hlast
  · have hnext : Running s (Machine.afterPixel u) (p + 1) := by
      refine ⟨h.inv.afterPixel h.busy, (busy_afterPixel_of_more hlast).trans h.busy, ?_, ?_, ?_, ?_⟩
      · rw [hb.pixIndex_afterPixel, h.index]
      · rw [afterPixel_frame, h.width]
      · rw [afterPixel_frame, h.height]
      · rw [afterPixel_frame, h.seed]
    exact .inl ⟨hnext.lt_npix, hnext⟩

theorem moveHost (h : Running s u p) (k pc : Nat) (ts : Temps) (l : List Turn) : Running s (u.moveHost k pc ts l) p :=
  ⟨h.inv.moveHost k pc ts l, h.busy, h.index, h.width, h.height, h.seed⟩

theorem dropWrite (h : Running s u p) : Running s (dropWrite u) p :=
  ⟨h.inv.dropWrite, (busy_of_flags (flags_dropWrite u)).trans h.busy, h.index, h.width, h.height, h.seed⟩

end Running

/-- A state with BUSY = 1 runs its own job. -/
theorem Running.refl {s : State} (hinv : Inv s) (hbusy : s.busy = true) : Running s s (pixIndex s) :=
  ⟨hinv, hbusy, rfl, rfl, rfl, rfl⟩

/-- While BUSY = 1 a step without reset is a pixel step of the engine, or a turn of the host that leaves the job where it
is. -/
theorem Running.step {s u t : State} {p : Nat} (h : Running s u p) (hstep : step u = .next t)
    (hreset : (nextTurn u).1 ≠ .reset) :
    ((nextTurn u).1 = .engine ∧
      ((p + 1 < npix s ∧ Running s t (p + 1)) ∨ (p + 1 = npix s ∧ Completed s t))) ∨
    ((nextTurn u).1 = .host ∧ Running s t p) := by
  cases step_effect hstep with
  | pixel l turn busy fits => exact .inl ⟨turn, (h.moveHost u.draws u.hpc u.temps l).afterPixel⟩
  | reset l turn => exact absurd turn hreset
  | quiet k pc ts l turn notPixel => exact .inr ⟨notPixel h.busy, h.moveHost k pc ts l⟩
  | dropped l off v turn busy write => exact .inr ⟨turn, (h.moveHost u.draws (u.hpc + 1) u.temps l).dropWrite⟩
  | param l r v turn busy isParam write => exact absurd (busy.symm.trans h.busy) (by decide)
  | take l w t turn busy write took => exact absurd (busy.symm.trans h.busy) (by decide)

/-- Settles O25: the step that ends BUSY is the last pixel's, whoever's turns came before. -/
theorem completedResultIsTheClosedForm : Obligations.CompletedResultIsTheClosedForm := by
  intro s t hinv hbusy hstep hdone hreset
  have still : ∀ p, ¬ Running s t p := fun p h => absurd (hdone.symm.trans h.busy) (by decide)
  rcases (Running.refl hinv hbusy).step hstep hreset with ⟨-, ⟨-, h⟩ | ⟨-, h⟩⟩ | ⟨-, h⟩
  · exact absurd h (still _)
  · exact ⟨h.length, h.pixels, h.state⟩
  · exact absurd h (still _)

/-! ### Under any schedule (R135) -/

/-- A step takes the first turn of the schedule off it. -/
theorem nextTurn_of_schedule {s : State} {x : Turn} {l : List Turn} (h : s.schedule = x :: l) :
    nextTurn s = (x, s.setSchedule l) := by
  rw [nextTurn, h]

theorem hostWrite_schedule {s t : State} {off : Nat} {v : Word} (h : hostWrite off v s = .next t) :
    t.schedule = s.schedule := by
  rcases hostWrite_cases off v s with he | ⟨-, he⟩ | ⟨-, r, -, -, he⟩ | ⟨-, -, he⟩
  · cases he.symm.trans h
    rfl
  · cases he.symm.trans h
    rfl
  · cases he.symm.trans h
    rw [writeParam_frame]
  · rw [takeCommand_frame (he.symm.trans h)]

/-- The schedule left by a step is the rest of the one before it: no agent schedules turns. -/
theorem step_schedule {s t : State} {x : Turn} {l : List Turn} (h : s.schedule = x :: l) (hstep : step s = .next t) :
    t.schedule = l := by
  obtain ⟨l', hl', hcases⟩ := step_cases hstep
  have hl : l' = l := by
    rw [nextTurn_of_schedule h] at hl'
    exact (congrArg State.schedule hl').symm
  subst hl
  rcases hcases with ⟨-, -, hpixel⟩ | ⟨-, -, rfl⟩ | ⟨-, rfl⟩ | ⟨-, ⟨k, pc, ts, rfl⟩, -⟩ | ⟨-, off, v, -, hw⟩
  · obtain ⟨-, rfl⟩ := pixelStep_cases hpixel
    rfl
  · rfl
  · rfl
  · rfl
  · exact hostWrite_schedule hw

/-- A running job completes within any turns that hold no reset and as many of the engine's as pixels remain. -/
theorem Running.completes {s u t : State} {p k : Nat} (h : Running s u p) (hk : k ≤ u.schedule.length)
    (hreset : Turn.reset ∉ u.schedule.take k) (hturns : npix s ≤ p + (u.schedule.take k).count .engine)
    (hrun : Host.Core.run Sys2Proof.core k u = .next t) :
    ∃ j v, j ≤ k ∧ Host.Core.run Sys2Proof.core j u = .next v ∧ Completed s v := by
  induction k generalizing u p with
  | zero => exact absurd h.lt_npix (Nat.not_lt.2 (by simpa using hturns))
  | succ k ih =>
    obtain ⟨x, l, hl⟩ := List.exists_cons_of_length_pos (Nat.lt_of_lt_of_le (Nat.succ_pos k) hk)
    obtain ⟨v, hstep, hrest⟩ := step_of_run_succ hrun
    have hschedule := step_schedule hl hstep
    have hturn : (nextTurn u).1 = x := by rw [nextTurn_of_schedule hl]
    rw [hl, List.take_succ_cons] at hreset hturns
    rw [hl] at hk
    obtain ⟨hx, hlater⟩ := not_or.1 (mt List.mem_cons.2 hreset)
    have later : ∀ q, Running s v q → npix s ≤ q + (l.take k).count .engine →
        ∃ j w, j ≤ k + 1 ∧ Host.Core.run Sys2Proof.core j u = .next w ∧ Completed s w := by
      intro q hq hcount
      obtain ⟨j, w, hj, hw, hdone⟩ := ih hq (hschedule ▸ Nat.le_of_succ_le_succ hk) (hschedule ▸ hlater)
        (hschedule ▸ hcount) hrest
      exact ⟨j + 1, w, Nat.succ_le_succ hj, (run_succ hstep j).trans hw, hdone⟩
    rcases h.step hstep (hturn ▸ Ne.symm hx) with ⟨hengine, ⟨-, hmore⟩ | ⟨-, hdone⟩⟩ | ⟨hhost, hsame⟩
    · rw [← hturn, hengine, List.count_cons_self] at hturns
      exact later _ hmore (by omega)
    · exact ⟨1, v, by omega, run_succ hstep 0, hdone⟩
    · rw [← hturn, hhost, List.count_cons_of_ne (by decide)] at hturns
      exact later _ hsame hturns

/-- Settles O27: a state with BUSY = 1 runs its own job, which completes within the turns given. -/
theorem runningGenerateCompletesUnderAnySchedule : Obligations.RunningGenerateCompletesUnderAnySchedule := by
  intro s t k hinv hbusy hk hreset hturns hrun
  obtain ⟨j, u, hj, hu, hdone⟩ := (Running.refl hinv hbusy).completes hk hreset hturns hrun
  exact ⟨j, u, hj, hu, hdone.busy, hdone.done, hdone.length, hdone.pixels⟩

/-! ### Where no turn is scheduled (log entry 5) -/

/-- With no turn scheduled a step while BUSY = 1 is the pixel step, and no turn is scheduled after it. -/
theorem Running.step_unscheduled {s u : State} {p : Nat} (h : Running s u p) (hschedule : u.schedule = []) :
    Machine.step u = .next (Machine.afterPixel u) ∧ (Machine.afterPixel u).schedule = [] := by
  have hturn : nextTurn u = (.engine, u) := by rw [nextTurn, hschedule, h.busy]; rfl
  constructor
  · rw [Machine.step, hturn]
    exact engineTurn_of_busy h.busy (h.inv.busy h.busy).quad_fits
  · rw [afterPixel_frame, hschedule]

/-- The pixel step of a running job writes no byte at or above the size. -/
theorem Running.read?_afterPixel {s u : State} {p a : Nat} (h : Running s u p) (ha : size s ≤ a) :
    (Machine.afterPixel u).obuf.read? a = u.obuf.read? a := by
  apply afterPixel_read?_of_outside
  have hp := h.lt_npix
  rw [size] at ha
  rw [(h.inv.busy h.busy).waddrEq, h.index]
  omega

/-- With no turn scheduled, each of the first steps brings the job one pixel on, and no byte at or above the size changes. -/
theorem Running.run_unscheduled {s u : State} (h : Running s u 0) (hschedule : u.schedule = []) {j : Nat}
    (hj : j < npix s) :
    ∃ v, Host.Core.run Sys2Proof.core j u = .next v ∧ Running s v j ∧ v.schedule = []
      ∧ ∀ a, size s ≤ a → v.obuf.read? a = u.obuf.read? a := by
  induction j with
  | zero => exact ⟨u, rfl, h, hschedule, fun _ _ => rfl⟩
  | succ j ih =>
    obtain ⟨v, hrun, hv, hempty, hkept⟩ := ih (Nat.lt_of_succ_lt hj)
    obtain ⟨hstep, hempty'⟩ := hv.step_unscheduled hempty
    rcases hv.afterPixel with ⟨-, hnext⟩ | ⟨hlast, -⟩
    · exact ⟨_, (run_add hrun 1).trans (run_succ hstep 0), hnext, hempty',
        fun a ha => (hv.read?_afterPixel ha).trans (hkept a ha)⟩
    · exact absurd hlast hj.ne

/-- With no turn scheduled, the job completes in exactly as many steps as it has pixels. -/
theorem Running.run_completes {s u : State} (h : Running s u 0) (hschedule : u.schedule = []) :
    ∃ v, Host.Core.run Sys2Proof.core (npix s) u = .next v ∧ Completed s v
      ∧ ∀ a, size s ≤ a → v.obuf.read? a = u.obuf.read? a := by
  obtain ⟨n, hn⟩ := Nat.exists_eq_succ_of_ne_zero (Nat.ne_of_gt h.lt_npix)
  obtain ⟨v, hrun, hv, hempty, hkept⟩ := h.run_unscheduled hschedule (hn ▸ Nat.lt_succ_self n)
  obtain ⟨hstep, -⟩ := hv.step_unscheduled hempty
  rcases hv.afterPixel with ⟨hmore, -⟩ | ⟨-, hdone⟩
  · exact absurd hmore (hn ▸ Nat.lt_irrefl _)
  · exact ⟨_, hn ▸ (run_add hrun 1).trans (run_succ hstep 0), hdone,
      fun a ha => (hv.read?_afterPixel ha).trans (hkept a ha)⟩

/-- The take of a GENERATE with a pixel that fits starts its job at pixel 0, with the turns and OBUF as they were (R86). -/
theorem Running.of_take {s t : State} (hinv : Inv s) (hidle : s.busy = false) (hfits : size s ≤ s.cfg.obufCap)
    (hpixels : npix s ≠ 0) (htake : takeCommand 0x00000004#32 s = .next t) :
    Running s t 0 ∧ t.schedule = s.schedule ∧ t.obuf = s.obuf := by
  obtain ⟨-, -, hcap⟩ := hinv.cfgWf
  have haccept : takeCommand 0x00000004#32 s = .next (acceptGenerate (clearRecord s)) :=
    (takeCommand_ok (decode_encode .generate) s).trans
      (exec_generate_of_fits (s := clearRecord s) (hfits.trans hcap) hfits)
  have hinvT := hinv.takeCommand hidle htake
  cases haccept.symm.trans htake
  have hbusy : (acceptGenerate (clearRecord s)).busy = true :=
    busy_of_flags (flags_acceptGenerate_of_pixels (s := clearRecord s) hpixels)
  refine ⟨⟨hinvT, hbusy, ?_, ?_, ?_, ?_⟩, ?_, ?_⟩
  · rw [acceptGenerate_frame]
    simp [pixIndex]
  all_goals
    rw [acceptGenerate_frame]
    rfl

/-- Settles O26: the take starts the job at pixel 0, each step writes one pixel, and the last one completes it. -/
theorem generateTakesExactlyNpixSteps : Obligations.GenerateTakesExactlyNpixSteps := by
  intro s t hinv hidle hschedule hfits hpixels htake
  obtain ⟨hjob, hturns, hobuf⟩ := Running.of_take hinv hidle hfits hpixels htake
  refine ⟨fun j hj => ?_, ?_⟩
  · obtain ⟨u, hrun, hu, -, -⟩ := hjob.run_unscheduled (hturns.trans hschedule) hj
    exact ⟨u, hrun, hu.busy, hu.index⟩
  · obtain ⟨u, hrun, hu, hkept⟩ := hjob.run_completes (hturns.trans hschedule)
    rw [hobuf] at hkept
    exact ⟨u, hrun, hu.busy, hu.done, hu.err, hu.length, hu.pixels, hkept, hu.state⟩

/-- Two memories that hold the same closed form agree below its end, and every byte there is written (R93, R95). -/
theorem pixelsDone_read? {m m' : Memory} {seed : Word} {k a : Nat} (h : pixelsDone m seed k) (h' : pixelsDone m' seed k)
    (ha : a < 4 * k) : m'.read? a = m.read? a ∧ (m.read? a).isSome := by
  have hp : a / 4 < k := by omega
  obtain ⟨h0, h1, h2, h3⟩ := h _ hp
  obtain ⟨h0', h1', h2', h3'⟩ := h' _ hp
  obtain hr | hr | hr | hr : a = 4 * (a / 4) ∨ a = 4 * (a / 4) + 1 ∨ a = 4 * (a / 4) + 2 ∨ a = 4 * (a / 4) + 3 := by
    omega
  · rw [hr, h0, h0']
    exact ⟨rfl, rfl⟩
  · rw [hr, h1, h1']
    exact ⟨rfl, rfl⟩
  · rw [hr, h2, h2']
    exact ⟨rfl, rfl⟩
  · rw [hr, h3, h3']
    exact ⟨rfl, rfl⟩

/-- Settles O28: both runs complete the same closed form. -/
theorem generateResultIsIsolated : Obligations.GenerateResultIsIsolated := by
  intro s s' t t' u u' hinv hinv' hidle hidle' hschedule hschedule' hwidth hheight hseed hpixels hfits hfits' htake htake'
    hrun hrun'
  have hnpix : npix s' = npix s := by rw [npix, hwidth, hheight, npix]
  have hsize : size s' = size s := by rw [size, hnpix, size]
  obtain ⟨hjob, hturns, -⟩ := Running.of_take hinv hidle hfits hpixels htake
  obtain ⟨hjob', hturns', -⟩ := Running.of_take hinv' hidle' (hsize ▸ hfits') (hnpix ▸ hpixels) htake'
  obtain ⟨v, hv, hdone, -⟩ := hjob.run_completes (hturns.trans hschedule)
  obtain ⟨v', hv', hdone', -⟩ := hjob'.run_completes (hturns'.trans hschedule')
  rw [hnpix] at hv'
  cases hv.symm.trans hrun
  cases hv'.symm.trans hrun'
  have hpixels' : pixelsDone u'.obuf s.seed (npix s) := by
    rw [← hseed, ← hnpix]
    exact hdone'.pixels
  refine ⟨BitVec.eq_of_toNat_eq ?_, ?_, hdone.length, fun a ha => pixelsDone_read? hdone.pixels hpixels' ha⟩
  · rw [hdone'.length, hdone.length, hsize]
  · rw [hdone'.state, hdone.state, hnpix, hseed]

end Sys2Proof.Machine
end

section
/-! Reads of OBUF (42_host_interface.md R102, R103): each byte of a word read is the last one written or a free value of its
own, drawn in the order of the addresses. -/

namespace Sys2Proof.Machine

/-! ### The bytes of a word (20_memory.md R43) -/

theorem getLsbD_byteOf (v : Word) (k : Nat) {j : Nat} (hj : j < 8) : (byteOf v k).getLsbD j = v.getLsbD (8 * k + j) := by
  rw [byteOf, BitVec.getLsbD_extractLsb', decide_eq_true hj, Bool.true_and]

/-- A word is its four bytes. -/
theorem word_ext {v w : Word} (h : ∀ k, k < 4 → byteOf v k = byteOf w k) : v = w := by
  refine BitVec.eq_of_getLsbD_eq fun i hi => ?_
  have hbyte := congrArg (fun b => b.getLsbD (i % 8)) (h (i / 8) (by omega))
  simpa only [getLsbD_byteOf _ _ (Nat.mod_lt i (by decide : 8 > 0)), Nat.div_add_mod] using hbyte

/-- Joining a byte at place `n` changes byte `n` alone, where that was 0. -/
theorem byteOf_or_shiftLeft (v : Word) (b : Byte) {n : Nat} (hn : n < 4) (k : Nat) :
    byteOf (v ||| (b.setWidth 32 <<< (8 * n))) k = byteOf v k ||| (if k = n then b else 0#8) := by
  refine BitVec.eq_of_getLsbD_eq fun j hj => ?_
  rw [BitVec.getLsbD_or, getLsbD_byteOf _ _ hj, getLsbD_byteOf _ _ hj, BitVec.getLsbD_or, BitVec.getLsbD_shiftLeft,
    BitVec.getLsbD_setWidth]
  congr 1
  rcases Nat.lt_trichotomy k n with hlt | rfl | hgt
  · rw [if_neg hlt.ne, decide_eq_true (show 8 * k + j < 8 * n by omega)]
    simp
  · have hword : 8 * k + j < 32 := by omega
    simp [hword, hj]
    omega
  · rw [if_neg hgt.ne', BitVec.getLsbD_of_ge b _ (by omega)]
    simp

/-! ### The bytes a read returns -/

/-- How many of the `k` bytes from `a` have never been written. -/
def unwrittenBytes (m : Memory) (a k : Nat) : Nat := ((List.range k).filter fun j => (m.read? (a + j)).isNone).length

theorem unwrittenBytes_succ (m : Memory) (a k : Nat) :
    unwrittenBytes m a (k + 1) = unwrittenBytes m a k + if (m.read? (a + k)).isNone then 1 else 0 := by
  rw [unwrittenBytes, List.range_succ, List.filter_append, List.length_append, unwrittenBytes]
  congr 1
  cases h : m.read? (a + k) <;> simp [h]

/-- Byte `k` of a read at `a`: the last one written, or the free value that follows those of the bytes before it (U1). -/
def byteRead (s : State) (a k : Nat) : Byte :=
  (s.obuf.read? (a + k)).getD (Config.freeByte (s.draws + unwrittenBytes s.obuf a k))

/-- Reading byte `k` after the bytes before it have drawn their free values. -/
theorem readByte_after (s : State) (a k : Nat) :
    readByte (a + k) (s.setDraws (s.draws + unwrittenBytes s.obuf a k))
      = (byteRead s a k, s.setDraws (s.draws + unwrittenBytes s.obuf a (k + 1))) := by
  rw [unwrittenBytes_succ, byteRead]
  rcases readByte_cases (a + k) (s.setDraws (s.draws + unwrittenBytes s.obuf a k)) with ⟨b, hb, hr⟩ | ⟨hnone, hr⟩
  · rw [hr, show s.obuf.read? (a + k) = some b from hb]
    rfl
  · rw [hr, show s.obuf.read? (a + k) = none from hnone]
    rfl

/-- A read of `n` bytes joins them little-endian and draws a free value for each never written (R11, R43). -/
theorem readLE_bytes (s : State) (a : Nat) {n : Nat} (hn : n ≤ 4) :
    (readLE a n s).2 = s.setDraws (s.draws + unwrittenBytes s.obuf a n)
      ∧ ∀ k, byteOf (readLE a n s).1 k = if k < n then byteRead s a k else 0#8 := by
  induction n with
  | zero => exact ⟨rfl, fun k => BitVec.extractLsb'_zero⟩
  | succ n ih =>
    obtain ⟨hstate, hbytes⟩ := ih (Nat.le_of_succ_le hn)
    have htop : readByte (a + n) (readLE a n s).2
        = (byteRead s a n, s.setDraws (s.draws + unwrittenBytes s.obuf a (n + 1))) := by
      rw [hstate, readByte_after]
    refine ⟨congrArg Prod.snd htop, fun k => ?_⟩
    have hword : (readLE a (n + 1) s).1 = (readLE a n s).1 ||| ((byteRead s a n).setWidth 32 <<< (8 * n)) := by
      rw [readLE, htop]
    rw [hword, byteOf_or_shiftLeft _ _ hn, hbytes]
    rcases Nat.lt_trichotomy k n with hlt | rfl | hgt
    · rw [if_pos hlt, if_neg hlt.ne, if_pos (Nat.lt_succ_of_lt hlt), BitVec.or_zero]
    · rw [if_neg (Nat.lt_irrefl k), if_pos rfl, if_pos (Nat.lt_succ_self k), BitVec.zero_or]
    · rw [if_neg hgt.not_gt, if_neg hgt.ne', if_neg (by omega), BitVec.or_zero]

/-- Where a quad stands, its bytes are read (R87). -/
theorem byteRead_quad {s : State} {a : Nat} {b : Byte} (h : quadAt s.obuf a b) {k : Nat} (hk : k < 4) :
    byteRead s a k = byteOf (pack b) k := by
  obtain ⟨h0, h1, h2, h3⟩ := h
  obtain ⟨p0, p1, p2, p3⟩ := byteOf_pack b
  interval_cases k
  · rw [p0, byteRead, Nat.add_zero, h0, Option.getD_some]
  · rw [p1, byteRead, h1, Option.getD_some]
  · rw [p2, byteRead, h2, Option.getD_some]
  · rw [p3, byteRead, h3, Option.getD_some]

/-- Settles O36: the bytes of an aligned word read, one by one; those of a quad are the bytes of `pack`. -/
theorem wordReadsAreLittleEndian : Obligations.WordReadsAreLittleEndian := by
  intro s a haligned hinside
  obtain ⟨hstate, hbytes⟩ := readLE_bytes s a (n := 4) (Nat.le_refl 4)
  have hbyte : ∀ k, k < 4 → byteOf (readLE a 4 s).1 k = byteRead s a k := fun k hk => (hbytes k).trans (if_pos hk)
  refine ⟨(readLE a 4 s).1, s.draws + unwrittenBytes s.obuf a 4, ?_, fun k b hk hwritten => ?_, fun k hk hnone => ?_, rfl,
    fun b hquad => ?_⟩
  · rw [performAccess_obufRead_none s (obufRefusal_none.2 (.inr ⟨rfl, haligned, hinside⟩)), hstate]
    rfl
  · rw [hbyte k hk, byteRead, hwritten, Option.getD_some]
  · rw [hbyte k hk, byteRead, hnone, Option.getD_none]
    rfl
  · rw [← pack_eq]
    exact word_ext fun k hk => (hbyte k hk).trans (byteRead_quad hquad hk)

/-- A read of one byte is that byte, zero-extended (R102). -/
theorem performAccess_byteRead {s : State} {a : Nat} (h : a < s.cfg.obufCap) :
    performAccess (.obufRead a 1) s = .next ((readByte a s).2, (readByte a s).1.setWidth 32) := by
  rw [performAccess_obufRead_none s (obufRefusal_none.2 (.inl ⟨rfl, h⟩))]
  simp [readLE]

/-- Settles O35: a byte read is `readByte`, which returns what was written or draws a free value. -/
theorem byteReadsReturnTheLastByteWritten : Obligations.ByteReadsReturnTheLastByteWritten := by
  intro s a hinside
  rw [performAccess_byteRead hinside]
  refine ⟨fun b hb => ?_, fun hnone => ?_⟩
  · rw [readByte, hb]
  · rw [readByte, hnone]
    rfl

end Sys2Proof.Machine
end

section
/-! INTENSITY (41_buffer_writer.md R92; 10_state.md R20): what a command and the engine do commutes with a change of it. -/

namespace Sys2Proof.Machine

theorem acceptGenerate_setIntensity (s : State) (v : Byte) :
    acceptGenerate (s.setIntensity v) = (acceptGenerate s).setIntensity v := by
  rw [acceptGenerate_eq, acceptGenerate_eq]
  rfl

theorem afterPixel_setIntensity (s : State) (v : Byte) :
    afterPixel (s.setIntensity v) = (afterPixel s).setIntensity v := by
  rw [afterPixel, pixelStep_eq, afterPixel, pixelStep_eq]
  rfl

theorem exec_setIntensity {i : Instr} {s t : State} (h : exec i s = .next t) (v : Byte) :
    exec i (s.setIntensity v) = .next (t.setIntensity v) := by
  cases i with
  | init =>
    cases h
    rfl
  | nextWord =>
    cases h
    rfl
  | nextByte =>
    cases h
    rfl
  | generate =>
    rcases execGenerate_cases s with ⟨hover, he⟩ | ⟨hrange, hcap, he⟩ | ⟨hrange, hfits, he⟩
    · cases he.symm.trans h
      exact exec_generate_of_overflow (s := s.setIntensity v) hover
    · cases he.symm.trans h
      exact exec_generate_of_noCapacity (s := s.setIntensity v) hrange hcap
    · cases he.symm.trans h
      rw [exec_generate_of_fits (s := s.setIntensity v) hrange hfits, acceptGenerate_setIntensity]

theorem engineTurn_setIntensity {s t : State} (h : engineTurn s = .next t) (v : Byte) :
    engineTurn (s.setIntensity v) = .next (t.setIntensity v) := by
  cases hbusy : s.busy with
  | false =>
    cases (engineTurn_of_idle hbusy).symm.trans h
    exact engineTurn_of_idle (s := s.setIntensity v) hbusy
  | true =>
    have hpixel : pixelStep s = .next t := by
      rw [engineTurn, hbusy] at h
      exact h
    obtain ⟨hfits, -⟩ := pixelStep_cases hpixel
    cases (engineTurn_of_busy hbusy hfits).symm.trans h
    rw [engineTurn_of_busy (s := s.setIntensity v) hbusy hfits, afterPixel_setIntensity]

/-- Settles O29: commands and the engine's turn commute with a change of INTENSITY. -/
theorem intensityIsInert : Obligations.IntensityIsInert :=
  ⟨fun _ _ _ v h => exec_setIntensity h v, fun _ _ v h => engineTurn_setIntensity h v⟩

end Sys2Proof.Machine
end

section
/-! Single transitions (00_scope.md R12; 30_encoding.md R59, R65, R66; 41_buffer_writer.md R86; 42_host_interface.md R99 to
R101; 70_reset_and_hazards.md R125): whose turn it is, the command taken, GENERATE's acceptance, the register window, and the
host's statements. -/

namespace Sys2Proof.Machine

/-! ### The command words and the power-up state -/

/-- Settles O1: fixed words, decoded. -/
theorem tableWordsDecodeToTheirCommands : Obligations.TableWordsDecodeToTheirCommands :=
  ⟨rfl, rfl, rfl, rfl, rfl, rfl, rfl, rfl, rfl, rfl, rfl, rfl⟩

/-- Settles O46: reset values, read off the state after power-up. -/
theorem powerUpStateIsAllZero : Obligations.PowerUpStateIsAllZero :=
  ⟨rfl, rfl, rfl, rfl, rfl, rfl, rfl, rfl, rfl, rfl, rfl, flags_resetBlock State.reset, Memory.read?_nil⟩

/-! ### Whose turn it is (log entry 5) -/

/-- With turns scheduled a step is the first one's transition. -/
theorem step_of_schedule {s : State} {x : Turn} {r : List Turn} (h : s.schedule = x :: r) :
    step s = runTurn x (s.setSchedule r) := by
  rw [step, nextTurn_of_schedule h]

/-- With none scheduled the engine goes first while BUSY = 1, the host otherwise. -/
theorem step_of_no_schedule {s : State} (h : s.schedule = []) :
    step s = runTurn (if s.busy then .engine else .host) s := by
  rw [step, nextTurn, h]

theorem engineTurn_eq_pixelStep {s : State} (h : s.busy = true) : engineTurn s = pixelStep s := if_pos h

/-- Settles O7: the six cases of the schedule and BUSY. -/
theorem eachStepIsOneAgentsTransition : Obligations.EachStepIsOneAgentsTransition := by
  refine ⟨fun s r h => ?_, fun s r h hbusy => ?_, fun s r h hidle => ?_, fun s r h => ?_, fun s h hbusy => ?_,
    fun s h hidle => ?_⟩
  · exact step_of_schedule h
  · exact (step_of_schedule h).trans (engineTurn_eq_pixelStep (s := s.setSchedule r) hbusy)
  · exact (step_of_schedule h).trans (engineTurn_of_idle (s := s.setSchedule r) hidle)
  · exact step_of_schedule h
  · rw [step_of_no_schedule h, if_pos hbusy]
    exact engineTurn_eq_pixelStep hbusy
  · rw [step_of_no_schedule h, hidle]
    rfl

/-! ### The command taken (R99; log entry 4) -/

/-- A statement that writes a register has the effect of the write (R65). -/
theorem execStmt_wr {s t : State} {off : Nat} {v : Word}
    (h : performAccess (.regWrite off 4 v) s.advance = .next (t, 0#32)) : execStmt (.wr off v) s = .next t := by
  rw [execStmt, accessOnly, h, onNext]

/-- A step in which the host writes CMD while BUSY = 0 is the take of the word. -/
theorem step_of_cmdWrite {s t : State} {w : Word} (hturn : (nextTurn s).1 = .host)
    (hstmt : hostStmt s = some (.wr 0x00 w)) (hidle : s.busy = false)
    (htake : takeCommand w (nextTurn s).2.advance = .next t) : step s = .next t := by
  obtain ⟨l, hl⟩ := nextTurn_state s
  rw [hl] at htake
  have hhost : hostTurn (s.setSchedule l) = execStmt (.wr 0x00 w) (s.setSchedule l) := by
    rw [hostTurn, hostStmt_setSchedule, hstmt]
  rw [step, hturn, hl, runTurn, hhost]
  exact execStmt_wr (performAccess_cmd (s := (s.setSchedule l).advance) hidle htake)

/-- Settles O4: the step is the take, and the take is `exec` or the report. -/
theorem stepTakesTheCommandWritten : Obligations.StepTakesTheCommandWritten := by
  refine ⟨fun s w i hturn hstmt hidle hdecode => ?_, fun s w e hturn hstmt hidle hdecode => ?_⟩
  · obtain ⟨t, ht⟩ := exec_next i (clearRecord (nextTurn s).2.advance)
    rw [ht]
    exact step_of_cmdWrite hturn hstmt hidle ((takeCommand_ok hdecode _).trans ht)
  · exact step_of_cmdWrite hturn hstmt hidle (takeCommand_error hdecode _)

/-- A word of the table decodes as its 32 bits do (R56). -/
theorem decode_of_decodeTableWord {w : Nat} {i : Instr} (h : decodeTableWord 32 w = some i) :
    decode (BitVec.ofNat 32 w) = .ok i := by
  have hbits : BitVec.ofNat 32 (w % 2 ^ 32) = BitVec.ofNat 32 w :=
    BitVec.eq_of_toNat_eq (by rw [BitVec.toNat_ofNat, BitVec.toNat_ofNat, Nat.mod_mod])
  rw [decodeTableWord, if_pos (Nat.le_refl 32), hbits] at h
  cases hd : decode (BitVec.ofNat 32 w) with
  | ok j =>
    rw [hd] at h
    cases h
    rfl
  | error e =>
    rw [hd] at h
    cases h

/-- Settles O6: `withFetchWord` makes the host's write of the word the next transition, with BUSY = 0. -/
theorem placedWordIsTheNextCommand : Obligations.PlacedWordIsTheNextCommand := by
  intro s w i hword
  have hdecode := decode_of_decodeTableWord hword
  have hplaced : s.withFetchWord 32 w = withCommandWrite s (BitVec.ofNat 32 w) := by
    rw [State.withFetchWord]
    congr 1
    exact BitVec.eq_of_toNat_eq (by rw [BitVec.toNat_ofNat, BitVec.toNat_ofNat, Nat.mod_mod])
  have hidle : (withCommandWrite s (BitVec.ofNat 32 w)).busy = false := statusBusy_withBusy s.status false
  rw [hplaced]
  exact stepTakesTheCommandWritten.1 (withCommandWrite s (BitVec.ofNat 32 w)) _ i rfl rfl hidle hdecode

/-! ### GENERATE's acceptance (R86) -/

/-- Settles O20: the acceptance field by field, with pixels and without. -/
theorem acceptedGenerateStarts : Obligations.AcceptedGenerateStarts := by
  refine ⟨fun s hrange hfits hpixels => ?_, fun s hnpix => ?_⟩
  · exact ⟨_, exec_generate_of_fits hrange hfits, acceptGenerate_frame s, flags_acceptGenerate_of_pixels hpixels⟩
  · exact ⟨_, exec_generate_of_npix_eq_zero hnpix, acceptGenerate_frame s, flags_acceptGenerate_of_npix_eq_zero hnpix⟩

/-! ### The register window (R100, R101) -/

/-- A 32-bit read of a register's own offset returns the register (R100). -/
theorem performAccess_readReg (r : Reg) (s : State) :
    performAccess (.regRead r.offset 4) s = .next (s, readReg r s) := by
  rw [performAccess_read r.offset_mod_four (Nat.lt_trans r.offset_lt (by decide)), readOffset, Reg.ofOffset_offset]

/-- Settles O32: each register's read. -/
theorem registerReadsReturnTheirRegister : Obligations.RegisterReadsReturnTheirRegister := fun s =>
  ⟨performAccess_readReg .cmd s, performAccess_readReg .status s, performAccess_readReg .width s,
    performAccess_readReg .height s, performAccess_readReg .intensity s, performAccess_readReg .seed s,
    performAccess_readReg .state s, performAccess_readReg .result s, performAccess_readReg .lengthLo s,
    performAccess_readReg .lengthHi s, performAccess_readReg .pixX s, performAccess_readReg .pixY s⟩

/-- A write to a register that is neither CMD nor a parameter is ignored, whatever BUSY is (R101). -/
theorem hostWrite_readOnly {r : Reg} (hcmd : r ≠ .cmd) (hparam : r.isParam = false) (v : Word) (s : State) :
    hostWrite r.offset v s = .next s := by
  cases r with
  | cmd => exact absurd rfl hcmd
  | width | height | intensity | seed => cases hparam
  | status | state | result | lengthLo | lengthHi | pixX | pixY => rfl

/-- Settles O34: each read-only register's write. -/
theorem readOnlyRegistersIgnoreWrites : Obligations.ReadOnlyRegistersIgnoreWrites := by
  intro s off v hoff
  rcases hoff with rfl | rfl | rfl | rfl | rfl | rfl | rfl
  · exact performAccess_writeReg (hostWrite_readOnly (r := .status) (by decide) rfl v s)
  · exact performAccess_writeReg (hostWrite_readOnly (r := .state) (by decide) rfl v s)
  · exact performAccess_writeReg (hostWrite_readOnly (r := .result) (by decide) rfl v s)
  · exact performAccess_writeReg (hostWrite_readOnly (r := .lengthLo) (by decide) rfl v s)
  · exact performAccess_writeReg (hostWrite_readOnly (r := .lengthHi) (by decide) rfl v s)
  · exact performAccess_writeReg (hostWrite_readOnly (r := .pixX) (by decide) rfl v s)
  · exact performAccess_writeReg (hostWrite_readOnly (r := .pixY) (by decide) rfl v s)

/-! ### The host's statements (R65, R66) -/

/-- A statement that reads gives the value to its temporary (R65). -/
theorem accessInto_next {a : Access} {s u : State} {v : Word} (h : performAccess a s = .next (u, v)) (t : Temp) :
    accessInto a t s = .next (u.setTemp t v) := by
  rw [accessInto, h, onNext]

/-- What a register read returns does not depend on where the host stands. -/
theorem readOffset_advance (off : Nat) (s : State) : readOffset off s.advance = readOffset off s := by
  rw [readOffset, readOffset]
  cases Reg.ofOffset off with
  | none => rfl
  | some r => cases r <;> rfl

theorem performAccess_regRead_advance {s u : State} {off : Nat} {v : Word}
    (h : performAccess (.regRead off 4) s = .next (u, v)) :
    performAccess (.regRead off 4) s.advance = .next (s.advance, v) := by
  cases hr : registerRefusal off 4 with
  | some r =>
    rw [performAccess_regRead_some s hr] at h
    cases h
  | none =>
    rw [performAccess_regRead_none s hr] at h
    cases h
    rw [performAccess_regRead_none s.advance hr, readOffset_advance]

/-- Settles O38: the host's control flow, and each access with the value it returns. -/
theorem hostStatementsDriveTheInterface : Obligations.HostStatementsDriveTheInterface := by
  refine ⟨fun s t bit target => ⟨?_, ?_⟩, fun s => rfl, fun s u off t v h => ?_, fun s u a t v h => accessInto_next h t,
    fun s u a t v h => accessInto_next h t, fun s u off v h => execStmt_wr h⟩
  · rw [execStmt]
    split <;> rfl
  · rw [execStmt]
    split <;> rfl
  · exact accessInto_next (performAccess_regRead_advance h) t

/-- Settles O39: each one-line script, assembled. -/
theorem pseudoInstructionsExpand : Obligations.PseudoInstructionsExpand :=
  ⟨fun _ => rfl, rfl, fun _ => rfl, fun _ => rfl, fun _ => rfl, fun _ _ _ _ => rfl⟩

end Sys2Proof.Machine
end
